-- ==== Sys2Proof/Word.lean ====
section
/-!
DEFINITION. The word types of the MD5 compression engine and the plainest arithmetic on them.
The machine has unsigned values only (R8); every sum wraps (R9, R192, R195).
Byte order, rotation, the mixing functions and the tables stand in Machine/Operands.lean.
-/

namespace Sys2Proof

/-- `u8` of R8: a byte of the input stream, of the buffer, of the digest. -/
abbrev Byte := BitVec 8

/-- `u32` of R8: an accumulator, a working register, a message word, a round constant. -/
abbrev Word := BitVec 32

/-- `u64` of R8: `total_length` and `bitlen`. -/
abbrev Length := BitVec 64

/-- `u128` of R8: the response bus `rsp_digest[127:0]`. -/
abbrev Digest := BitVec 128

/-- A word of the command port, `cmd_word[9:0]` (R80, R81). -/
abbrev CmdWord := BitVec 10

/-- A sequencer word `seq[7:0]` (R33, R90). -/
abbrev SeqWord := BitVec 8

/-- A round index `rnd`, 0..63 (R32). -/
abbrev RoundIndex := BitVec 6

/-- R9 `add32`: addition mod 2^32; the carry out of bit 31 is discarded (R192). -/
def add32 (x y : Word) : Word := x + y

/-- R9 `add64`: addition mod 2^64 (R23, R195). -/
def add64 (x y : Length) : Length := x + y

/-- R9 `not32`: bitwise complement in 32 bits. -/
def not32 (x : Word) : Word := x ^^^ 0xFFFFFFFF#32

end Sys2Proof
end

