-- ==== Sys2Proof/Config.lean ====
section
/-!
DEFINITION. What is fixed for the machine, and the values the spec leaves free.
R6: every size is fixed by the source; the spec names no configuration choice but `T_CMD` (R7), which no rule reads.
The free values are opaque constants: nothing can be proved about what they are. They depend on the number of the draw alone,
so that two draws of one number are equal (log entry 22).
-/

namespace Sys2Proof.Config

/-- R22, R36: the reset value of accumulator A. -/
def initA : Word := 0x67452301#32
/-- R22, R36: the reset value of accumulator B. -/
def initB : Word := 0xefcdab89#32
/-- R22, R36: the reset value of accumulator C. -/
def initC : Word := 0x98badcfe#32
/-- R22, R36: the reset value of accumulator D. -/
def initD : Word := 0x10325476#32

/-- R6 `BLOCK_BYTES`: the pending buffer has 64 cells, indexed 0..63 (R24, R52). -/
def blockBytes : Nat := 64

/-- What a cell of the pending buffer reads as when nothing has been written there.
DESIGN CHOICE (log entry 2, unsafe): R24 and R36 give the cells no reset value; the model reads 0x00. -/
def unlistedByte : Byte := 0x00#8

/-- A free value (log entry 1, DESIGN CHOICE, safe): what working register `reg` (0 = a .. 3 = d) holds after the
`draw`-th return to rest. R30, R31, R36: "unspecified" at rest. -/
opaque freeWorking (draw reg : Nat) : BitVec 32

/-- A free value (log entry 1, DESIGN CHOICE, safe): what `bitlen` holds after the `draw`-th return to rest.
R34: "Unspecified outside FINALIZE". -/
opaque freeBitlen (draw : Nat) : BitVec 64

/-- A free value (log entry 1, DESIGN CHOICE, safe): what `rsp_digest` shows after the `draw`-th return to rest.
R86: "after the response instant the value of `rsp_digest` is unspecified". -/
opaque freeRspDigest (draw : Nat) : BitVec 128

end Sys2Proof.Config
end

