-- ==== Sys2Proof/Syntax.lean ====
section
/-!
DEFINITION. The instructions: one constructor for every row of spec/opcode_table.json.
Two formats (30_encoding.md): commands, which the host issues on the command port (format CMD), and
micro-operations, which the engine's sequencer steps through (format SEQ).
-/

namespace Sys2Proof

/-- The commands (R80, R83) and the micro-operations (R90). -/
inductive Instr where
  /-- ABSORB v (R121): command word `0x100 + v`. -/
  | absorb (v : Byte)
  /-- FINALIZE (R150): command word 0x200. -/
  | finalize
  /-- RESET (R120): command word 0x300. -/
  | reset
  /-- IDLE (R90): sequencer word 0x00. -/
  | idle
  /-- SEED (R182): sequencer word 0x40. -/
  | seed
  /-- ROUND_F (R184): round `i` = `rnd` in 0..15, sequencer word `0x80 + i`. -/
  | roundF (i : RoundIndex)
  /-- ROUND_G (R185): round `i` in 16..31. -/
  | roundG (i : RoundIndex)
  /-- ROUND_H (R186): round `i` in 32..47. -/
  | roundH (i : RoundIndex)
  /-- ROUND_I (R187): round `i` in 48..63. -/
  | roundI (i : RoundIndex)
  /-- FEEDFWD (R188): sequencer word 0xC0. -/
  | feedfwd
  deriving DecidableEq, Repr

/-- An encoded instruction: a word of one of the two formats (30_encoding.md, opening). -/
inductive Code where
  /-- Format CMD: a 10-bit word on the command port (R80). -/
  | cmd (w : CmdWord)
  /-- Format SEQ: the 8-bit sequencer word (R90). -/
  | seq (w : SeqWord)
  deriving DecidableEq, Repr

end Sys2Proof
end

