-- ==== Sys2Proof/WellFormed.lean ====
section
/-!
DEFINITION. When an instruction is one the encodings can express.
A round micro-operation carries its round index; R90 and R91 tie the index to the micro-operation's group.
-/

namespace Sys2Proof

/-- R90, R91: the group of a round is `rnd[5:4]`. ROUND_F is the rounds of group 0, ROUND_G of group 1, ROUND_H of group 2, ROUND_I of group 3;
every other instruction is well formed at every operand (R84: every byte is an operand of ABSORB). -/
def Instr.wellFormed (i : Instr) : Bool :=
  match i with
  | .absorb _ => true
  | .finalize => true
  | .reset => true
  | .idle => true
  | .seed => true
  | .roundF i => i.extractLsb' 4 2 == 0#2
  | .roundG i => i.extractLsb' 4 2 == 1#2
  | .roundH i => i.extractLsb' 4 2 == 2#2
  | .roundI i => i.extractLsb' 4 2 == 3#2
  | .feedfwd => true

end Sys2Proof
end

