-- ==== Sys2Proof/Decode.lean ====
section
/-!
DEFINITION. The decoder of both formats, total and rejecting by name, and after it the encoder.
Both are written from R83 (commands) and R90 (micro-operations).
-/

namespace Sys2Proof

/-- Why a word is no instruction. -/
inductive DecodeError where
  /-- R88: one of the 766 reserved command words. -/
  | reservedCommand (w : CmdWord)
  /-- R90: a value of `seq` that is unreachable and reserved. -/
  | reservedSequencer (w : SeqWord)
  deriving DecidableEq, Repr

/-- A row of the tables of R83 and R90: "A word w is the command of a row when `(w and mask) = match`." -/
structure OpcodeRow (n : Nat) where
  /-- the row's mnemonic -/
  mnemonic : String
  /-- the bits the row fixes, at their values -/
  pattern : BitVec n
  /-- which bits the row fixes -/
  mask : BitVec n
  deriving DecidableEq, Repr

/-- Whether the word is the row's. -/
def OpcodeRow.selects {n : Nat} (r : OpcodeRow n) (w : BitVec n) : Bool := w &&& r.mask == r.pattern

/-- R83, first row. -/
def rowAbsorb : OpcodeRow 10 := ⟨"ABSORB", 0x100#10, 0x300#10⟩
/-- R83, second row. -/
def rowFinalize : OpcodeRow 10 := ⟨"FINALIZE", 0x200#10, 0x3FF#10⟩
/-- R83, third row. -/
def rowReset : OpcodeRow 10 := ⟨"RESET", 0x300#10, 0x3FF#10⟩
/-- R90, first row. -/
def rowIdle : OpcodeRow 8 := ⟨"IDLE", 0x00#8, 0xFF#8⟩
/-- R90, second row. -/
def rowSeed : OpcodeRow 8 := ⟨"SEED", 0x40#8, 0xFF#8⟩
/-- R90, third row. -/
def rowRoundF : OpcodeRow 8 := ⟨"ROUND_F", 0x80#8, 0xF0#8⟩
/-- R90, fourth row. -/
def rowRoundG : OpcodeRow 8 := ⟨"ROUND_G", 0x90#8, 0xF0#8⟩
/-- R90, fifth row. -/
def rowRoundH : OpcodeRow 8 := ⟨"ROUND_H", 0xA0#8, 0xF0#8⟩
/-- R90, sixth row. -/
def rowRoundI : OpcodeRow 8 := ⟨"ROUND_I", 0xB0#8, 0xF0#8⟩
/-- R90, seventh row. -/
def rowFeedfwd : OpcodeRow 8 := ⟨"FEEDFWD", 0xC0#8, 0xFF#8⟩

/-- The table of R83. -/
def commandRows : List (OpcodeRow 10) := [rowAbsorb, rowFinalize, rowReset]

/-- The table of R90. -/
def sequencerRows : List (OpcodeRow 8) :=
  [rowIdle, rowSeed, rowRoundF, rowRoundG, rowRoundH, rowRoundI, rowFeedfwd]

/-- The data field of a command word, `cmd_word[7:0]` (R80, R84). -/
def cmdData (w : CmdWord) : Byte := w.extractLsb' 0 8

/-- The operation code of a command word, `cmd_word[9:8]` (R80). -/
def cmdOp (w : CmdWord) : BitVec 2 := w.extractLsb' 8 2

/-- The round index of a sequencer word, `rnd = seq[5:0]` (R32, R90). -/
def seqRnd (w : SeqWord) : RoundIndex := w.extractLsb' 0 6

/-- R91: the group of a round, `rnd[5:4]`: 0 = F, 1 = G, 2 = H, 3 = I. -/
def roundGroup (i : RoundIndex) : BitVec 2 := i.extractLsb' 4 2

/-- The decoder of the command port: R83, and R88 for every word no row selects. -/
def decodeCmd (w : CmdWord) : Except DecodeError Instr :=
  if rowAbsorb.selects w then .ok (.absorb (cmdData w))
  else if rowFinalize.selects w then .ok .finalize
  else if rowReset.selects w then .ok .reset
  else .error (.reservedCommand w)

/-- The decoder of the sequencer: R90; every value no row selects is reserved. -/
def decodeSeq (w : SeqWord) : Except DecodeError Instr :=
  if rowIdle.selects w then .ok .idle
  else if rowSeed.selects w then .ok .seed
  else if rowRoundF.selects w then .ok (.roundF (seqRnd w))
  else if rowRoundG.selects w then .ok (.roundG (seqRnd w))
  else if rowRoundH.selects w then .ok (.roundH (seqRnd w))
  else if rowRoundI.selects w then .ok (.roundI (seqRnd w))
  else if rowFeedfwd.selects w then .ok .feedfwd
  else .error (.reservedSequencer w)

/-- The decoder: the word's format says which table reads it (30_encoding.md: two levels of instruction). -/
def decode (c : Code) : Except DecodeError Instr :=
  match c with
  | .cmd w => decodeCmd w
  | .seq w => decodeSeq w

/-- The encoder: R83 (`op` in bits 9:8, `data` in bits 7:0) and R90 (`phase` in bits 7:6, `rnd` in bits 5:0). -/
def encode (i : Instr) : Code :=
  match i with
  | .absorb v => .cmd (0b01#2 ++ v)
  | .finalize => .cmd (0b10#2 ++ 0x00#8)
  | .reset => .cmd (0b11#2 ++ 0x00#8)
  | .idle => .seq (0b00#2 ++ 0b000000#6)
  | .seed => .seq (0b01#2 ++ 0b000000#6)
  | .roundF i => .seq (0b10#2 ++ i)
  | .roundG i => .seq (0b10#2 ++ i)
  | .roundH i => .seq (0b10#2 ++ i)
  | .roundI i => .seq (0b10#2 ++ i)
  | .feedfwd => .seq (0b11#2 ++ 0b000000#6)

/-- The mnemonics of R83 and R90. -/
def mnemonic (i : Instr) : String :=
  match i with
  | .absorb _ => "ABSORB"
  | .finalize => "FINALIZE"
  | .reset => "RESET"
  | .idle => "IDLE"
  | .seed => "SEED"
  | .roundF _ => "ROUND_F"
  | .roundG _ => "ROUND_G"
  | .roundH _ => "ROUND_H"
  | .roundI _ => "ROUND_I"
  | .feedfwd => "FEEDFWD"

/-- The mnemonics of the rows of R83 or R90 that select a word. -/
def selectedMnemonics (c : Code) : List String :=
  match c with
  | .cmd w => (commandRows.filter fun r => r.selects w).map OpcodeRow.mnemonic
  | .seq w => (sequencerRows.filter fun r => r.selects w).map OpcodeRow.mnemonic

/-- The word of a row of spec/opcode_table.json as an encoded instruction: a row of the table is 8 bits wide (format
SEQ, one byte) or 10 bits wide (format CMD, two whole bytes, whose six bits above the word must be 0). -/
def tableCode (nbits w : Nat) : Option Code :=
  if nbits ≤ 8 then (if w < 256 then some (.seq (BitVec.ofNat 8 w)) else none)
  else if nbits ≤ 16 then (if w < 1024 then some (.cmd (BitVec.ofNat 10 w)) else none)
  else none

/-- What the decoder reads from an instruction whose bits are `w`, numbered as spec/opcode_table.json numbers them. -/
def decodeTableWord (nbits w : Nat) : Option Instr :=
  match tableCode nbits w with
  | none => none
  | some c =>
    match decode c with
    | .ok i => some i
    | .error _ => none

end Sys2Proof
end

