-- ==== Sys2Proof/Machine/State.lean ====
section
/-!
DEFINITION. The state of the machine as plain data: every piece of state of 10_state.md, 20_memory.md (BUF) and the
two ports of 30_encoding.md, beside the host agent of R20 and the model's own control fields.
-/

namespace Sys2Proof.Machine

/-- Four 32-bit registers: the accumulators A, B, C, D (`H[0..3]`, R22) or the working registers a, b, c, d
(`w[0..3]`, R31). -/
structure Quad where
  /-- register 0: A or a -/
  a : Word
  /-- register 1: B or b -/
  b : Word
  /-- register 2: C or c -/
  c : Word
  /-- register 3: D or d -/
  d : Word
  deriving DecidableEq, Repr

/-- The pending buffer BUF (R24, R52) as (index, byte) pairs in canonical form: indexes strictly rising and below 64,
no byte equal to `Config.unlistedByte`. -/
abbrev Memory := List Host.Cell

/-- What the host agent (R20) does at its ports, in order. -/
inductive HostAct where
  /-- present this command word and hold it until it is accepted (R82). -/
  | word (w : CmdWord)
  /-- for the time of one step, present no word (R263: "pause any time between words"). -/
  | pause
  /-- assert the hardware reset input `rst` (R280); the words behind it are not accepted in that step (R253). The list has
  no act that asserts `rst` while a presented word is held (log entry 23, DESIGN CHOICE, unsafe). -/
  | rst
  deriving DecidableEq, Repr

/-- The level at which `step` runs an accepted command. R13 and D1 make a command one atomic step; R161 and R191 give
the same command as a sequence of micro-operations ("A model may use the function or the steps"). -/
inductive Detail where
  /-- an accepted command is one step (R13). -/
  | command
  /-- an accepted command runs micro-operation by micro-operation (R90, R161, R191). -/
  | micro
  deriving DecidableEq, Repr

/-- How far the command in progress has come, when it runs micro-operation by micro-operation: what R82 ("from acceptance
until the command's whole effect is complete") and the lines F1 to F6 of R161 imply. -/
inductive Activity where
  /-- no command is in progress. -/
  | rest
  /-- an ABSORB whose byte has been written. -/
  | absorbing
  /-- FINALIZE before F2: the byte 0x80 comes next. -/
  | padMark
  /-- FINALIZE in the loop F3: a byte 0x00 comes next unless `pending_len` is 56. -/
  | padZeros
  /-- FINALIZE in the loop F4: byte `k` of `bitlen` comes next. -/
  | padLength (k : BitVec 3)
  /-- FINALIZE before F5: the digest read-out comes next. -/
  | readOut
  /-- FINALIZE at the response instant (R86), before `cmd_ready` returns to 1. -/
  | responding
  deriving DecidableEq, Repr

/-- The machine. -/
structure State where
  /-- accumulators A, B, C, D = `H[0..3]` (R22). -/
  h : Quad
  /-- `total_length` (R23). -/
  totalLength : Length
  /-- the 64 byte cells `pending[0..63]`, BUF (R24, R52). -/
  pending : Memory
  /-- `pending_len`, the 6-bit fill length (R25). -/
  pendingLen : BitVec 6
  /-- working registers a, b, c, d = `w[0..3]` (R31). -/
  w : Quad
  /-- the sequencer word `seq` (R33); its low six bits are the round counter `rnd` (R32). -/
  seq : SeqWord
  /-- the FINALIZE bit-length latch `bitlen` (R34). -/
  bitlen : Length
  /-- the compress trigger: the write at index 63 has made the buffer a full block and SEED has not been selected yet
  (R25 "with the wrap as the compress trigger"; R90, row IDLE: "when a block completes"). -/
  blockReady : Bool
  /-- how far the command in progress has come (R82, R161). -/
  activity : Activity
  /-- the port output `cmd_ready` (R81, R82). -/
  cmdReady : Bool
  /-- the port output `rsp_valid` (R86). -/
  rspValid : Bool
  /-- the port output `rsp_digest[127:0]` (R86, R87). -/
  rspDigest : Digest
  /-- the host agent: what it still does at the command port and at `rst`, the stream IN (R20, R50, R51, R81). -/
  hostActs : List HostAct
  /-- the host agent: the responses it has taken, oldest first, the stream OUT (R50, R56, R288). -/
  responses : List Digest
  /-- the model's own: the level at which `step` runs a command (log entry 5). -/
  detail : Detail
  /-- the model's own: how many times the free values of rest have been drawn (log entry 1). -/
  draws : Nat
  deriving DecidableEq, Repr

/-- R250: "The engine raises no synchronous exception." There is no condition under which the machine faults, so this
type has no constructor; nobody raises a fault. -/
inductive Fault where
  deriving DecidableEq, Repr

/-- Why a step has no meaning. -/
inductive Refusal where
  /-- Raised by an arm of `exec` that has no meaning yet: none is left. Safe. -/
  | notModelled (mnemonic : String)
  /-- Raised by `step` when the host presents a reserved command word to an engine at rest (R88: "the model gives a
  reserved word no step (it is refused)"). Safe. -/
  | reservedCommandWord (w : CmdWord)
  /-- Raised by `step` when `seq` holds one of the values R90 calls "unreachable and reserved". Safe. -/
  | reservedSequencerWord (w : SeqWord)
  deriving DecidableEq, Repr

/-- The accumulators' reset values (R22, R36). -/
def initQuad : Quad := ⟨Config.initA, Config.initB, Config.initC, Config.initD⟩

/-- The machine right after hardware reset (R36, R280, R283). The spec gives no value for `w`, `bitlen`, `rsp_digest`
(zero here, log entry 3, DESIGN CHOICE) nor for the buffer's cells (log entry 2); the host has nothing to say yet. -/
def State.reset : State where
  h := initQuad
  totalLength := 0x0000000000000000#64
  pending := []
  pendingLen := 0#6
  w := ⟨0#32, 0#32, 0#32, 0#32⟩
  seq := 0x00#8
  bitlen := 0#64
  blockReady := false
  activity := .rest
  cmdReady := true
  rspValid := false
  rspDigest := 0#128
  hostActs := []
  responses := []
  detail := .command
  draws := 0

end Sys2Proof.Machine
end

