-- ==== Sys2Proof/Machine/Operands.lean ====
section
/-!
DEFINITION. Operand forms: rotation and byte order (R9, R10), the four mixing functions (R184 to R187), the operand
selection of a round by table (R91 to R96), the message words (R53, R181), the digest's byte and bus layouts (R56, R87).
-/

namespace Sys2Proof.Machine

/-- R9 `rotl32`: left rotation; bits leaving bit 31 re-enter at bit 0 (R193). -/
def rotl32 (x : Word) (s : Nat) : Word := (x <<< s) ||| (x >>> (32 - s))

/-- R9 `mul8_64`: `(x << 3)[63:0]`; the top three bits are lost (R151). -/
def mul8_64 (x : Length) : Length := x <<< 3

/-- R10 `le32`: four bytes as a word, the first the least significant. -/
def le32 (b0 b1 b2 b3 : Byte) : Word := b3 ++ b2 ++ b1 ++ b0

/-- R10 `bytes_le(v, n)`: the `n` low bytes of `v`, least significant first. -/
def bytesLe {m : Nat} (v : BitVec m) (n : Nat) : List Byte :=
  (List.range n).map fun k => v.extractLsb' (8 * k) 8

/-- R184: `F(b, c, d) = (b and c) or (not32(b) and d)`. -/
def mixF (b c d : Word) : Word := (b &&& c) ||| (not32 b &&& d)

/-- R185: `G(b, c, d) = (b and d) or (c and not32(d))`. -/
def mixG (b c d : Word) : Word := (b &&& d) ||| (c &&& not32 d)

/-- R186: `H(b, c, d) = b xor c xor d`. -/
def mixH (b c d : Word) : Word := b ^^^ c ^^^ d

/-- R187: `I(b, c, d) = c xor (b or not32(d))`. -/
def mixI (b c d : Word) : Word := c ^^^ (b ||| not32 d)

/-- R91: the mixing function of a group, 0 = F, 1 = G, 2 = H, 3 = I. -/
def mixOf (group : BitVec 2) : Word → Word → Word → Word :=
  match group.toNat with
  | 0 => mixF
  | 1 => mixG
  | 2 => mixH
  | _ => mixI

/-- R92: one row of the rotation table, for i mod 4 = 0, 1, 2, 3. -/
def rotationRow (group : Nat) : List Nat :=
  match group with
  | 0 => [7, 12, 17, 22]
  | 1 => [5, 9, 14, 20]
  | 2 => [4, 11, 16, 23]
  | _ => [6, 10, 15, 21]

/-- SROM, the rotation table `S[i]` (R55, R92): the entry depends on the group and on i mod 4. -/
def rotationAmount (i : RoundIndex) : Nat :=
  (rotationRow (roundGroup i).toNat).getD (i.toNat % 4) 0

/-- R93, i = 0..15. -/
def constantsF : List Word :=
  [0xd76aa478#32, 0xe8c7b756#32, 0x242070db#32, 0xc1bdceee#32] ++
  [0xf57c0faf#32, 0x4787c62a#32, 0xa8304613#32, 0xfd469501#32] ++
  [0x698098d8#32, 0x8b44f7af#32, 0xffff5bb1#32, 0x895cd7be#32] ++
  [0x6b901122#32, 0xfd987193#32, 0xa679438e#32, 0x49b40821#32]

/-- R93, i = 16..31. -/
def constantsG : List Word :=
  [0xf61e2562#32, 0xc040b340#32, 0x265e5a51#32, 0xe9b6c7aa#32] ++
  [0xd62f105d#32, 0x02441453#32, 0xd8a1e681#32, 0xe7d3fbc8#32] ++
  [0x21e1cde6#32, 0xc33707d6#32, 0xf4d50d87#32, 0x455a14ed#32] ++
  [0xa9e3e905#32, 0xfcefa3f8#32, 0x676f02d9#32, 0x8d2a4c8a#32]

/-- R93, i = 32..47. -/
def constantsH : List Word :=
  [0xfffa3942#32, 0x8771f681#32, 0x6d9d6122#32, 0xfde5380c#32] ++
  [0xa4beea44#32, 0x4bdecfa9#32, 0xf6bb4b60#32, 0xbebfbc70#32] ++
  [0x289b7ec6#32, 0xeaa127fa#32, 0xd4ef3085#32, 0x04881d05#32] ++
  [0xd9d4d039#32, 0xe6db99e5#32, 0x1fa27cf8#32, 0xc4ac5665#32]

/-- R93, i = 48..63. -/
def constantsI : List Word :=
  [0xf4292244#32, 0x432aff97#32, 0xab9423a7#32, 0xfc93a039#32] ++
  [0x655b59c3#32, 0x8f0ccc92#32, 0xffeff47d#32, 0x85845dd1#32] ++
  [0x6fa87e4f#32, 0xfe2ce6e0#32, 0xa3014314#32, 0x4e0811a1#32] ++
  [0xf7537e82#32, 0xbd3af235#32, 0x2ad7d2bb#32, 0xeb86d391#32]

/-- KROM, the constant table `K[i]` (R54, R93); selection is by round index alone (R94). -/
def roundConstant (i : RoundIndex) : Word :=
  (constantsF ++ constantsG ++ constantsH ++ constantsI).getD i.toNat 0#32

/-- R95, message scheduling: the index `g(i)` of the message word round `i` reads, 0..15. -/
def messageIndex (i : RoundIndex) : Nat :=
  match (roundGroup i).toNat with
  | 0 => i.toNat
  | 1 => (5 * i.toNat + 1) % 16
  | 2 => (3 * i.toNat + 5) % 16
  | _ => (7 * i.toNat) % 16

/-- R183, the registers' part of every round: `t = a + f(b,c,d) + K + M`, `nb = b + (t <<< S)`, then
`(a, b, c, d) <- (d, nb, b, c)`, all four at once. -/
def roundQuad (f : Word → Word → Word → Word) (k : Word) (s : Nat) (m : Word) (w : Quad) : Quad :=
  let t := add32 (add32 (add32 w.a (f w.b w.c w.d)) k) m
  let nb := add32 w.b (rotl32 t s)
  ⟨w.d, nb, w.b, w.c⟩

/-- R188: four independent 32-bit additions; no carry passes from one register to the next. -/
def addQuad (x y : Quad) : Quad :=
  ⟨add32 x.a y.a, add32 x.b y.b, add32 x.c y.c, add32 x.d y.d⟩

/-- R56, R156: the 16 digest bytes, `bytes_le(A,4) ++ bytes_le(B,4) ++ bytes_le(C,4) ++ bytes_le(D,4)`. -/
def digestBytes (h : Quad) : List Byte :=
  bytesLe h.a 4 ++ bytesLe h.b 4 ++ bytesLe h.c 4 ++ bytesLe h.d 4

/-- R87: the response bus that carries 16 digest bytes, byte k on bits 8k+7..8k. -/
def digestBus (bytes : List Byte) : Digest :=
  bytes.foldr (fun b acc => (acc <<< 8) ||| b.setWidth 128) 0#128

/-- R87 read backwards: digest byte k of a response, `rsp_digest[8k+7:8k]`. -/
def busByte (d : Digest) (k : Nat) : Byte := d.extractLsb' (8 * k) 8

/-- The 16 digest bytes of a response, byte 0 first (R87, R230). -/
def busBytes (d : Digest) : List Byte := (List.range 16).map (busByte d)

end Sys2Proof.Machine
end

