-- ==== Sys2Proof/Machine/Flags.lean ====
section
/-!
DEFINITION. Conditions. The engine has no flag and no condition code (R29); every carry is discarded (R192).
What stands here are the only conditions its control looks at, and the port signals that are views of the state.
-/

namespace Sys2Proof.Machine

/-- R122, R123: the next byte goes to index 63, so that writing it completes a block. -/
def State.fillsBlock (s : State) : Bool := s.pendingLen == 63#6

/-- R161, F3: the zeros of the padding end when `pending_len` is 56. -/
def State.zerosDone (s : State) : Bool := s.pendingLen == 56#6

/-- A micro-operation is due: `seq` names one, or a block has completed and IDLE will select SEED (R33, R90). -/
def State.midCompression (s : State) : Bool := s.seq != 0x00#8 || s.blockReady

/-- R32: the round counter, `rnd = seq[5:0]`. -/
def State.rnd (s : State) : RoundIndex := seqRnd s.seq

/-- R81: the port signal `cmd_valid`: whether the host presents a word now.
DESIGN CHOICE (log entry 23, unsafe): it is false at an `rst` instant, also when a word stands behind the `rst`, though
R253 (b) lets `rst` coincide with a presented word and leaves `cmd_valid` open there. -/
def State.cmdValid (s : State) : Bool :=
  match s.hostActs with
  | .word _ :: _ => true
  | _ => false

/-- R81: the port signal `rst`: whether the host asserts hardware reset now. -/
def State.rstAsserted (s : State) : Bool :=
  match s.hostActs with
  | .rst :: _ => true
  | _ => false

end Sys2Proof.Machine
end

