-- ==== Sys2Proof/Machine/Ops.lean ====
section
/-!
DEFINITION. The named operations over the buffer and the registers, shared by the instructions' meanings.
The engine takes no exception and has no trap entry or return (R250, R254, R255), so no operation here takes one;
its one re-entry point is the initial state (R36, R280), which `reinit` and `settle` write.
-/

namespace Sys2Proof.Machine

/-! ### The pending buffer (BUF, R52) -/

/-- The canonical form above index `lo`. -/
def Memory.wfFrom (lo : Nat) (m : Memory) : Bool :=
  match m with
  | [] => true
  | (k, v) :: rest => lo ≤ k && k < Config.blockBytes && v != Config.unlistedByte && Memory.wfFrom (k + 1) rest

/-- The canonical form of the buffer: indexes strictly rising and in 0..63 (R52), no byte an unlisted cell reads as. -/
def Memory.wf (m : Memory) : Bool := Memory.wfFrom 0 m

/-- `MemRead(BUF, k, 1)` (R12): the byte in cell `k`. -/
def Memory.read (m : Memory) (k : Nat) : Byte :=
  match m with
  | [] => Config.unlistedByte
  | (j, v) :: rest => if j = k then v else Memory.read rest k

/-- `MemWrite(BUF, k, 1, v)` (R12), keeping the canonical form. -/
def Memory.write (m : Memory) (k : Nat) (v : Byte) : Memory :=
  match m with
  | [] => if v = Config.unlistedByte then [] else [(k, v)]
  | (j, u) :: rest =>
    if k < j then (if v = Config.unlistedByte then (j, u) :: rest else (k, v) :: (j, u) :: rest)
    else if k = j then (if v = Config.unlistedByte then rest else (k, v) :: rest)
    else (j, u) :: Memory.write rest k v

/-- `MemRead(BUF, 4g, 4)`, the message word `M[g]` (R53, R181): bytes 4g to 4g+3, little-endian. -/
def Memory.word (m : Memory) (g : Nat) : Word :=
  le32 (m.read (4 * g)) (m.read (4 * g + 1)) (m.read (4 * g + 2)) (m.read (4 * g + 3))

/-- The bytes of cells 0 to n-1, `pending[0..n-1]`. -/
def Memory.bytes (m : Memory) (n : Nat) : List Byte := (List.range n).map m.read

/-! ### Coming to rest -/

/-- R120, R157, R280: the initial state, in every field the spec gives a value. The buffer's cells "are not cleared". -/
def reinit (s : State) : State :=
  { s with h := initQuad, totalLength := 0#64, pendingLen := 0#6, seq := 0x00#8, blockReady := false }

/-- A command's end (R82): `cmd_ready` returns to 1, no response is offered (R86), and the transient state is
unspecified (R30, R34, R36, R86): a fresh free value each time (log entry 1). Two choices of the model come with it: the
value then stands until something writes it (log entry 19), and it depends on `draws` alone, so that engines with equal
counters hold equal unspecified values, which R258 does not say (log entry 22; both DESIGN CHOICE, unsafe). -/
def settle (s : State) : State :=
  { s with
    activity := .rest, cmdReady := true, rspValid := false,
    w := ⟨Config.freeWorking s.draws 0, Config.freeWorking s.draws 1, Config.freeWorking s.draws 2,
      Config.freeWorking s.draws 3⟩,
    bitlen := Config.freeBitlen s.draws, rspDigest := Config.freeRspDigest s.draws, draws := s.draws + 1 }

/-- R86, R158 `respond(d)`: the response instant; the host takes the digest there (R263). -/
def respond (d : List Byte) (s : State) : State :=
  { s with rspValid := true, rspDigest := digestBus d, responses := s.responses ++ [digestBus d] }

/-- R280, R281: hardware reset. It abandons whatever is in progress and produces no response. A response whose instant it
coincides with has been taken already and stays in `responses` (log entry 21, DESIGN CHOICE, unsafe). -/
def hardReset (s : State) : State := settle (reinit s)

/-! ### The micro-operations (R90) -/

/-- R90, row IDLE: no operation; `seq` becomes 0x40 when a block completes, else 0x00. -/
def idleOp (s : State) : State :=
  { s with seq := if s.blockReady then 0x40#8 else 0x00#8, blockReady := false }

/-- R182: a<-A, b<-B, c<-C, d<-D. -/
def seedOp (s : State) : State := { s with w := s.h, seq := 0x80#8 }

/-- R183: round `i` with mixing function `f`; rotation, constant and message word are selected by `i`. -/
def roundOp (f : Word → Word → Word → Word) (i : RoundIndex) (s : State) : State :=
  { s with
    w := roundQuad f (roundConstant i) (rotationAmount i) (s.pending.word (messageIndex i)) s.w
    seq := s.seq + 1#8 }

/-- R188: the working registers are added into the accumulators. -/
def feedfwdOp (s : State) : State := { s with h := addQuad s.h s.w, seq := 0x00#8 }

/-- The `n` rounds from the one `seq` names (R32, R91, R183). -/
def runRounds (n : Nat) (s : State) : State :=
  match n with
  | 0 => s
  | n + 1 => runRounds n (roundOp (mixOf (roundGroup s.rnd)) s.rnd s)

/-- R180 COMPRESS of the block the buffer holds: IDLE selects SEED, then SEED, the 64 rounds in index order, FEEDFWD. -/
def compress (s : State) : State :=
  feedfwdOp (runRounds 64 (seedOp (idleOp { s with blockReady := true })))

/-! ### The buffer primitive (R122, R123) -/

/-- R122, the write: `MemWrite(BUF, pending_len, 1, v)`. -/
def storeByte (v : Byte) (s : State) : State :=
  { s with pending := s.pending.write s.pendingLen.toNat v }

/-- R123 BlockComplete: the compression runs at once, then the buffer is empty. -/
def blockComplete (s : State) : State := { compress s with pendingLen := 0#6 }

/-- R122 PutByte(v), as one operation. -/
def putByte (v : Byte) (s : State) : State :=
  if s.fillsBlock then blockComplete (storeByte v s)
  else { storeByte v s with pendingLen := s.pendingLen + 1#6 }

/-- R122 PutByte(v) in the byte-serial form of R25: the 6-bit index wraps from 63 to 0, "with the wrap as the compress
trigger"; the sequencer then runs the compression. -/
def putByteSerial (v : Byte) (s : State) : State :=
  { storeByte v s with pendingLen := s.pendingLen + 1#6, blockReady := s.fillsBlock }

/-! ### The padding of FINALIZE (R151 to R153) -/

/-- R151: `bitlen = mul8_64(total_length)`, latched before anything else. -/
def latchBitlen (s : State) : State := { s with bitlen := mul8_64 s.totalLength }

/-- R153: `z = (55 - total_length) mod 64`. -/
def zeroCount (totalLength : Length) : Nat := (55#6 - totalLength.setWidth 6).toNat

/-- R152: `pad = [0x80] ++ rep(0x00, z) ++ bytes_le(bitlen, 8)`. -/
def padding (totalLength bitlen : Length) : List Byte :=
  [0x80#8] ++ List.replicate (zeroCount totalLength) 0x00#8 ++ bytesLe bitlen 8

/-- R154: the padding goes through PutByte, byte by byte, in order. -/
def putBytes (bs : List Byte) (s : State) : State := bs.foldl (fun s b => putByte b s) s

end Sys2Proof.Machine
end

