-- ==== Sys2Proof/Machine/Command.lean ====
section
/-!
DEFINITION. The meanings of the commands (format CMD), each atomic (R13): RESET, ABSORB, FINALIZE.
-/

namespace Sys2Proof.Machine

/-- RESET (R120): the initial state; whatever was absorbed is discarded; no response. -/
def execReset (s : State) : Host.Outcome State Fault Refusal := .next (settle (reinit s))

/-- ABSORB v (R121): `total_length <- add64(total_length, 1)`, then PutByte(v). -/
def execAbsorb (v : Byte) (s : State) : Host.Outcome State Fault Refusal :=
  .next (settle (putByte v { s with totalLength := add64 s.totalLength 1#64 }))

/-- R150, steps 1 to 3: the bit length is latched and the padding absorbed. -/
def absorbPadding (s : State) : State :=
  putBytes (padding s.totalLength (mul8_64 s.totalLength)) (latchBitlen s)

/-- FINALIZE (R150): steps 1 to 3, the digest read-out (R156), the re-initialisation (R157), the response (R158). -/
def execFinalize (s : State) : Host.Outcome State Fault Refusal :=
  .next (settle (respond (digestBytes (absorbPadding s).h) (reinit (absorbPadding s))))

end Sys2Proof.Machine
end

