-- ==== Sys2Proof/Machine/Sequencer.lean ====
section
/-!
DEFINITION. The meanings of the micro-operations (format SEQ): IDLE, SEED, ROUND_F, ROUND_G, ROUND_H, ROUND_I, FEEDFWD.
-/

namespace Sys2Proof.Machine

/-- IDLE (R90): no operation; SEED comes next when a block completes. -/
def execIdle (s : State) : Host.Outcome State Fault Refusal := .next (idleOp s)

/-- SEED (R182). -/
def execSeed (s : State) : Host.Outcome State Fault Refusal := .next (seedOp s)

/-- ROUND_F (R184): ROUND(i) of R183 with the function F. -/
def execRoundF (i : RoundIndex) (s : State) : Host.Outcome State Fault Refusal := .next (roundOp mixF i s)

/-- ROUND_G (R185): ROUND(i) of R183 with the function G. -/
def execRoundG (i : RoundIndex) (s : State) : Host.Outcome State Fault Refusal := .next (roundOp mixG i s)

/-- ROUND_H (R186): ROUND(i) of R183 with the function H. -/
def execRoundH (i : RoundIndex) (s : State) : Host.Outcome State Fault Refusal := .next (roundOp mixH i s)

/-- ROUND_I (R187): ROUND(i) of R183 with the function I. -/
def execRoundI (i : RoundIndex) (s : State) : Host.Outcome State Fault Refusal := .next (roundOp mixI i s)

/-- FEEDFWD (R188), the accumulator update. -/
def execFeedfwd (s : State) : Host.Outcome State Fault Refusal := .next (feedfwdOp s)

end Sys2Proof.Machine
end

