-- ==== Sys2Proof/Machine/Dispatch.lean ====
section
/-!
DEFINITION. The dispatch: one arm for every instruction.
-/

namespace Sys2Proof.Machine

def exec (i : Instr) (s : State) : Host.Outcome State Fault Refusal :=
  match i with
  | .absorb v => Sys2Proof.Machine.execAbsorb v s
  | .finalize => Sys2Proof.Machine.execFinalize s
  | .reset => Sys2Proof.Machine.execReset s
  | .idle => Sys2Proof.Machine.execIdle s
  | .seed => Sys2Proof.Machine.execSeed s
  | .roundF r => Sys2Proof.Machine.execRoundF r s
  | .roundG r => Sys2Proof.Machine.execRoundG r s
  | .roundH r => Sys2Proof.Machine.execRoundH r s
  | .roundI r => Sys2Proof.Machine.execRoundI r s
  | .feedfwd => Sys2Proof.Machine.execFeedfwd s

end Sys2Proof.Machine
end

