-- ==== Sys2Proof/Machine/Serial.lean ====
section
/-!
DEFINITION. A command run micro-operation by micro-operation: its acceptance, and what the engine's control does between
two compressions (R82, R90, the lines F1 to F6 of R161). The compressions themselves are the sequencer's micro-operations.
-/

namespace Sys2Proof.Machine

/-- R82: a command is accepted; `cmd_ready` is 0 until its whole effect is complete.
DESIGN CHOICE (log entry 19, unsafe): inside the command `rsp_digest` keeps the free value last drawn until the response
instant, though R86, R283 and U4 leave it any value at every instant but that one; likewise `w` and `bitlen` where R30 and
R34 leave them open. -/
def beginCommand (a : Activity) (s : State) : State := { s with cmdReady := false, activity := a }

/-- ABSORB v from its acceptance to its buffer write (R121). -/
def startAbsorb (v : Byte) (s : State) : State :=
  beginCommand .absorbing (putByteSerial v { s with totalLength := add64 s.totalLength 1#64 })

/-- FINALIZE from its acceptance to the end of F1 (R151, R161). -/
def startFinalize (s : State) : State := beginCommand .padMark (latchBitlen s)

/-- R161, F2: PutByte(0x80). -/
def serialMark (s : State) : State := { putByteSerial 0x80#8 s with activity := .padZeros }

/-- R161, F3: `while pending_len != 56: PutByte(0x00)`, one turn of the loop or its end. -/
def serialZero (s : State) : State :=
  if s.zerosDone then { s with activity := .padLength 0#3 } else putByteSerial 0x00#8 s

/-- R161, F4: `PutByte(bitlen[8k+7:8k])`. -/
def serialLength (k : BitVec 3) (s : State) : State :=
  { putByteSerial (s.bitlen.extractLsb' (8 * k.toNat) 8) s with
    activity := if k = 7#3 then .readOut else .padLength (k + 1#3) }

/-- R161, F5 and F6: digest read-out, re-initialisation, response; `cmd_ready` is still 0 (R86).
DESIGN CHOICE (log entry 21, unsafe): the host has the digest in `responses` from this step on. An `rst` in the next one, at
the response instant, does not take it back; the spec does not say whether that FINALIZE counts as abandoned (R253, R281). -/
def serialReadOut (s : State) : State :=
  { respond (digestBytes s.h) (reinit s) with activity := .responding }

/-- What the control does when a command is in progress and no micro-operation is due. -/
def commandControl (s : State) : State :=
  match s.activity with
  | .rest => settle s
  | .absorbing => settle s
  | .padMark => serialMark s
  | .padZeros => serialZero s
  | .padLength k => serialLength k s
  | .readOut => serialReadOut s
  | .responding => settle s

/-- The host's side of one step in which it presents nothing new: a pause passes, a word is held (R82, R263). -/
def tick (s : State) : State :=
  match s.hostActs with
  | .pause :: rest => { s with hostActs := rest }
  | _ => s

end Sys2Proof.Machine
end

