-- ==== Sys2Proof/Machine/Engine.lean ====
section
/-!
DEFINITION. What one step is made of: running the micro-operation that `seq` names, and accepting a presented word.
-/

namespace Sys2Proof.Machine

/-- The micro-operation `seq` names takes effect (R33, R90); a reserved value names none. -/
def runSequencer (s : State) : Host.Outcome State Fault Refusal :=
  match decode (.seq s.seq) with
  | .ok i => exec i s
  | .error _ => .refused (.reservedSequencerWord s.seq)

/-- A command accepted at the micro-operation level (log entry 5). RESET has no micro-operation and is one step at either
level; no other instruction is a command. -/
def startCommand (i : Instr) (s : State) : Host.Outcome State Fault Refusal :=
  match i with
  | .absorb v => .next (startAbsorb v s)
  | .finalize => .next (startFinalize s)
  | .reset => exec .reset s
  | .idle => exec .idle s
  | .seed => exec .seed s
  | .roundF r => exec (.roundF r) s
  | .roundG r => exec (.roundG r) s
  | .roundH r => exec (.roundH r) s
  | .roundI r => exec (.roundI r) s
  | .feedfwd => exec .feedfwd s

/-- R82: the word is accepted; R88: a reserved word has no step. -/
def acceptWord (w : CmdWord) (s : State) : Host.Outcome State Fault Refusal :=
  match decode (.cmd w) with
  | .error _ => .refused (.reservedCommandWord w)
  | .ok i =>
    match s.detail with
    | .command => exec i s
    | .micro => startCommand i s

/-- An engine at rest: it accepts the presented word (R82), else it holds its state (R262) and IDLE takes effect (R90). -/
def stepAtRest (s : State) : Host.Outcome State Fault Refusal :=
  match s.hostActs with
  | .word w :: rest => acceptWord w { s with hostActs := rest }
  | _ => exec .idle (tick s)

/-- One step with `rst` not asserted: a micro-operation that is due, else the control of a command in progress, else an
engine at rest. -/
def stepRunning (s : State) : Host.Outcome State Fault Refusal :=
  if s.midCompression then runSequencer (tick s)
  else if s.cmdReady then stepAtRest s
  else .next (commandControl (tick s))

/-- One step; `rst` beats everything (R253, R281). -/
def stepOnce (s : State) : Host.Outcome State Fault Refusal :=
  match s.hostActs with
  | .rst :: rest => .next (hardReset { s with hostActs := rest })
  | _ => stepRunning s

/-- The state in which the next step accepts the command word `w` and runs it whole: an engine at rest to which the host
presents it. -/
def presentCommand (w : CmdWord) (s : State) : State :=
  { s with
    hostActs := .word w :: s.hostActs, seq := 0x00#8, blockReady := false, activity := .rest, cmdReady := true,
    detail := .command }

/-- The state in which the next step runs the micro-operation `w`: `seq` holds it, and the host lets that step pass. IDLE
runs on an engine at rest. -/
def presentMicro (w : SeqWord) (s : State) : State :=
  { s with
    hostActs := .pause :: s.hostActs, seq := w,
    cmdReady := if w = 0x00#8 then true else s.cmdReady }

end Sys2Proof.Machine
end

