-- ==== Sys2Proof/Machine/Step.lean ====
section
/-!
DEFINITION. The step, and where the next instruction stands.
-/

namespace Sys2Proof.Machine

/-- One step of the machine: one accepted command (R13) or one micro-operation (R90, R191). -/
def step (s : State) : Host.Outcome State Fault Refusal := stepOnce s

/-- `s` with the instruction of spec/opcode_table.json whose bits are `w` where the next step takes its instruction: a
command on the command port, a micro-operation in `seq`. A word of neither format changes nothing. -/
def State.withFetchWord (s : State) (nbits w : Nat) : State :=
  match tableCode nbits w with
  | some (.cmd c) => presentCommand c s
  | some (.seq c) => presentMicro c s
  | none => s

end Sys2Proof.Machine
end

