-- ==== Sys2Proof/Machine/Instances.lean ====
section
/-!
DEFINITION. Several engines (R258): "A model of n instances is the product of n copies of this machine, each with its own
host stream." Each copy has its own counter `draws`; copies whose counters are equal hold equal unspecified values
(log entry 22, DESIGN CHOICE, unsafe).
-/

namespace Sys2Proof.Machine

/-- R258: engine `k` of the list takes one step; an index beyond the list names no engine and nothing happens. -/
def stepInstance (k : Nat) (engines : List State) : Host.Outcome (List State) Fault Refusal :=
  match engines[k]? with
  | none => .next engines
  | some s =>
    match step s with
    | .next t => .next (engines.set k t)
    | .fault r => .fault r
    | .refused r => .refused r

end Sys2Proof.Machine
end

