-- ==== Sys2Proof/Machine/Functional.lean ====
section
/-!
DEFINITION. The operations of the spec that are functions, not steps: Compress as a function of a block (R180), its
unrolled form (R189), the persistent state as a value (R21), UPDATE by its four stages (R124 to R128), Digest (R163).
They are the spec's own second descriptions of the machine, to be compared with its steps.
-/

namespace Sys2Proof.Machine

/-! ### The compression step as a function (R180) -/

/-- R181: the message word `M[g]` of a block of bytes. -/
def blockWord (blk : List Byte) (g : Nat) : Word :=
  le32 (blk.getD (4 * g) 0#8) (blk.getD (4 * g + 1) 0#8) (blk.getD (4 * g + 2) 0#8) (blk.getD (4 * g + 3) 0#8)

/-- R183: round `i` on the working registers, the message words given. -/
def roundFn (msg : Nat → Word) (w : Quad) (i : RoundIndex) : Quad :=
  roundQuad (mixOf (roundGroup i)) (roundConstant i) (rotationAmount i) (msg (messageIndex i)) w

/-- R180: the 64 rounds in index order. -/
def roundsFn (msg : Nat → Word) (w : Quad) : Quad :=
  ((List.range 64).map (BitVec.ofNat 6)).foldl (roundFn msg) w

/-- R180: Compress of the message words, from and to the accumulators. -/
def compressFn (msg : Nat → Word) (h : Quad) : Quad := addQuad h (roundsFn msg h)

/-- R180: Compress of a block of 64 bytes. -/
def compressBlock (blk : List Byte) (h : Quad) : Quad := compressFn (blockWord blk) h

/-! ### The unrolled form (R189) -/

/-- R189: `x = y + rotl32(x + f(y, z, v) + M[g] + K[i], s)`: the new value of register x in round `i`. -/
def unrolledRound (msg : Nat → Word) (i : RoundIndex) (x y z v : Word) : Word :=
  add32 y (rotl32 (add32 (add32 (add32 x (mixOf (roundGroup i) y z v)) (msg (messageIndex i))) (roundConstant i))
    (rotationAmount i))

/-- R189: rounds 4j to 4j+3, the roles (x, y, z, v) cycling through (a,b,c,d), (d,a,b,c), (c,d,a,b), (b,c,d,a). -/
def unrolledFour (msg : Nat → Word) (w : Quad) (j : Nat) : Quad :=
  let a := unrolledRound msg (BitVec.ofNat 6 (4 * j)) w.a w.b w.c w.d
  let d := unrolledRound msg (BitVec.ofNat 6 (4 * j + 1)) w.d a w.b w.c
  let c := unrolledRound msg (BitVec.ofNat 6 (4 * j + 2)) w.c d a w.b
  let b := unrolledRound msg (BitVec.ofNat 6 (4 * j + 3)) w.b c d a
  ⟨a, b, c, d⟩

/-- R189: the 64 rounds written without moving registers. -/
def unrolledRounds (msg : Nat → Word) (w : Quad) : Quad := (List.range 16).foldl (unrolledFour msg) w

/-! ### The persistent state (R21) -/

/-- R21 HashState, "the sole persistent entity": the accumulators, `total_length`, and the bytes of
`pending[0..pending_len-1]`, whose number is `pending_len` (R24). -/
structure HashState where
  /-- A, B, C, D -/
  h : Quad
  /-- `total_length` -/
  totalLength : Length
  /-- `pending[0..pending_len-1]` -/
  content : List Byte
  deriving DecidableEq, Repr

/-- The persistent part of a state. -/
def State.hashState (s : State) : HashState :=
  ⟨s.h, s.totalLength, s.pending.bytes s.pendingLen.toNat⟩

/-- R36, R120: the initial HashState. -/
def HashState.initial : HashState := ⟨initQuad, 0#64, []⟩

/-! ### UPDATE (R124) -/

/-- Successive byte writes from index `k` upward. -/
def Memory.writeRun (m : Memory) (k : Nat) (bs : List Byte) : Memory :=
  match bs with
  | [] => m
  | b :: rest => Memory.writeRun (m.write k b) (k + 1) rest

/-- R127: `n` whole blocks of `bs`, compressed in input order. -/
def foldBlocks (n : Nat) (bs : List Byte) (h : Quad) : Quad :=
  match n with
  | 0 => h
  | n + 1 => foldBlocks n (bs.drop 64) (compressBlock (bs.take 64) h)

/-- R125, stage 1: the length grows by the number of bytes, mod 2^64. -/
def updateLength (n : Nat) (s : State) : State :=
  { s with totalLength := add64 s.totalLength (BitVec.ofNat 64 n) }

/-- R126: how many bytes stage 2 takes. -/
def fillTake (bs : List Byte) (s : State) : Nat :=
  if s.pendingLen = 0#6 then 0 else min (64 - s.pendingLen.toNat) bs.length

/-- R126, stage 2: a non-empty buffer is filled; a full one is compressed and emptied. -/
def updateFill (bs : List Byte) (s : State) : State :=
  let m := s.pending.writeRun s.pendingLen.toNat (bs.take (fillTake bs s))
  if s.pendingLen.toNat + fillTake bs s = 64 then
    { s with pending := m, h := compressBlock (m.bytes 64) s.h, pendingLen := 0#6 }
  else { s with pending := m, pendingLen := s.pendingLen + BitVec.ofNat 6 (fillTake bs s) }

/-- R127, stage 3: as many whole blocks as are available, directly. -/
def updateBlocks (bs : List Byte) (s : State) : State :=
  { s with h := foldBlocks (bs.length / 64) bs s.h }

/-- R128, stage 4: the remainder is appended at index `pending_len`. -/
def updateRemainder (bs : List Byte) (s : State) : State :=
  { s with
    pending := s.pending.writeRun s.pendingLen.toNat bs
    pendingLen := s.pendingLen + BitVec.ofNat 6 bs.length }

/-- UPDATE bs (R124), the source's algorithm: four stages in order.
DESIGN CHOICE (log entry 20, unsafe): `w`, `bitlen` and `rsp_digest` keep the values they had, where R30, R34 and R86 leave
them unspecified at rest; this function draws no free value. -/
def update (bs : List Byte) (s : State) : State :=
  let rest := bs.drop (fillTake bs s)
  updateRemainder (rest.drop (64 * (rest.length / 64)))
    (updateBlocks rest (updateFill bs (updateLength bs.length s)))

/-! ### The digest as a function (R163) -/

/-- R163: `m ++ [0x80] ++ rep(0x00, (55 - len(m)) mod 64) ++ bytes_le((8*len(m)) mod 2^64, 8)`. -/
def paddedMessage (m : List Byte) : List Byte :=
  m ++ [0x80#8] ++ List.replicate ((119 - m.length % 64) % 64) 0x00#8 ++ bytesLe (BitVec.ofNat 64 (8 * m.length)) 8

/-- R163: the accumulators after the blocks of the padded message. -/
def digestQuad (m : List Byte) : Quad :=
  foldBlocks ((paddedMessage m).length / 64) (paddedMessage m) initQuad

/-- R163 Digest(m): 16 bytes. -/
def digestOf (m : List Byte) : List Byte := digestBytes (digestQuad m)

end Sys2Proof.Machine
end

