-- ==== Sys2Proof/Machine/Script.lean ====
section
/-!
DEFINITION. Command scripts and the host-side helpers: command syntax and pseudo-instructions (R85, R97, R98), a sequence
of commands (R13, R65), HEX (R230, R231), ONESHOT (R232), the listing form of a micro-sequence (R99).
-/

namespace Sys2Proof.Machine

/-- R98: the operand of UPDATE and ONESHOT. -/
inductive ScriptOperand where
  /-- `"text"`: each character as its 7-bit ASCII code. -/
  | text (t : String)
  /-- `hex:...`: the bytes in order. -/
  | hex (bytes : List Byte)
  /-- `rep(0xNN, n)`. -/
  | rep (v : Byte) (n : Nat)
  deriving DecidableEq, Repr

/-- R97, R98: a line of a command script. -/
inductive ScriptLine where
  /-- `RESET` -/
  | reset
  /-- `ABSORB 0xNN` -/
  | absorb (v : Byte)
  /-- `FINALIZE` -/
  | finalize
  /-- `UPDATE <operand>` -/
  | update (o : ScriptOperand)
  /-- `ONESHOT <operand>` -/
  | oneshot (o : ScriptOperand)
  deriving DecidableEq, Repr

/-- R98: the bytes of an operand. -/
def ScriptOperand.bytes (o : ScriptOperand) : List Byte :=
  match o with
  | .text t => t.toList.map fun c => BitVec.ofNat 8 c.toNat
  | .hex bytes => bytes
  | .rep v n => List.replicate n v

/-- R85: the burst of UPDATE: one ABSORB for each byte, in order; nothing when there is none. -/
def burst (bs : List Byte) : List Instr := bs.map .absorb

/-- R232: ONESHOT m is RESET, UPDATE m, FINALIZE. -/
def oneshotCommands (bs : List Byte) : List Instr := [.reset] ++ burst bs ++ [.finalize]

/-- R97, R98: the commands a line stands for. -/
def ScriptLine.expand (l : ScriptLine) : List Instr :=
  match l with
  | .reset => [.reset]
  | .absorb v => [.absorb v]
  | .finalize => [.finalize]
  | .update o => burst o.bytes
  | .oneshot o => oneshotCommands o.bytes

/-- The command words of a sequence of commands (R83); a micro-operation has none. -/
def commandWords (is : List Instr) : List CmdWord :=
  is.filterMap fun i =>
    match encode i with
    | .cmd w => some w
    | .seq _ => none

/-- R97: the command words of a script. -/
def scriptWords (ls : List ScriptLine) : List CmdWord := commandWords (ls.flatMap ScriptLine.expand)

/-- The host presents these words, in order (R82). -/
def presentWords (ws : List CmdWord) : List HostAct := ws.map .word

/-- R65: `Step` folded over a sequence of instructions, in order, each completely before the next. -/
def execAll (is : List Instr) (s : State) : Host.Outcome State Fault Refusal :=
  match is with
  | [] => .next s
  | i :: rest =>
    match exec i s with
    | .next t => execAll rest t
    | .fault r => .fault r
    | .refused r => .refused r

/-! ### HEX (R230, R231) -/

/-- R230: the sixteen digits. -/
def hexDigits : List Char :=
  ['0', '1', '2', '3', '4', '5', '6', '7'] ++ ['8', '9', 'a', 'b', 'c', 'd', 'e', 'f']

/-- R230: `digit(n)`. -/
def hexDigit (n : BitVec 4) : Char := hexDigits.getD n.toNat '0'

/-- R230: the two digits of a byte, most significant nibble first. -/
def hexByte (b : Byte) : List Char := [hexDigit (b.extractLsb' 4 4), hexDigit (b.extractLsb' 0 4)]

/-- R230 HEX d: two digits for each byte, bytes in array order. -/
def hexChars (d : List Byte) : List Char := d.flatMap hexByte

/-- HEX d as a string. -/
def hexString (d : List Byte) : String := String.ofList (hexChars d)

/-- R231: the value of a digit; only `[0-9a-f]` has one. -/
def unhexDigit (c : Char) : Option (BitVec 4) := (hexDigits.idxOf? c).map (BitVec.ofNat 4)

/-- R231: decoding "byte-by-byte". -/
def unhex (cs : List Char) : Option (List Byte) :=
  match cs with
  | [] => some []
  | [_] => none
  | hi :: lo :: rest =>
    match unhexDigit hi, unhexDigit lo, unhex rest with
    | some h, some l, some bs => some ((h ++ l) :: bs)
    | _, _, _ => none

/-! ### The listing form (R99) -/

/-- A 32-bit numeral in hexadecimal, most significant digit first. -/
def hexWord (x : Word) : String := hexString (bytesLe x 4).reverse

/-- R99: `seq  mnemonic  a b c d`, the working registers after the micro-operation. -/
def listingLine (seq : SeqWord) (i : Instr) (after : State) : String :=
  String.ofList (hexByte seq) ++ "  " ++ mnemonic i ++ "  " ++ hexWord after.w.a ++ " " ++ hexWord after.w.b ++ " " ++
    hexWord after.w.c ++ " " ++ hexWord after.w.d

end Sys2Proof.Machine
end

