-- ==== Sys2Proof/Safety.lean ====
section
/-!
DEFINITION. The terms statements are made in: an engine at rest, the legal states, a run.
-/

namespace Sys2Proof.Machine

/-- The engine is at rest (R15, R26, R33): no command in progress, `seq` is IDLE, `cmd_ready` is 1, no response offered. -/
structure State.AtRest (s : State) : Prop where
  /-- no command is in progress -/
  noCommand : s.activity = .rest
  /-- R82 -/
  ready : s.cmdReady = true
  /-- R33: "`seq` = 0x00 (IDLE) whenever no compression is in progress" -/
  idle : s.seq = 0x00#8
  /-- no compression is due -/
  noBlock : s.blockReady = false
  /-- R86 -/
  noResponse : s.rspValid = false

/-- R28: the legal values of `seq`: 0x00, 0x40, 0x80..0xBF, 0xC0. -/
def legalSeq (q : SeqWord) : Bool := q == 0x00#8 || q == 0x40#8 || (0x80 ≤ q.toNat && q.toNat ≤ 0xC0)

/-- What `pending_len` is, by how far the command in progress has come: R26 item 4 at rest; inside a command what the lines
of R161 leave after each of the model's steps (log entries 9 and 10). -/
def State.lengthAgrees (s : State) : Prop :=
  match s.activity with
  | .rest => s.pendingLen = s.totalLength.setWidth 6
  | .absorbing => s.pendingLen = s.totalLength.setWidth 6
  | .padMark => s.pendingLen = s.totalLength.setWidth 6
  | .padZeros => True
  | .padLength k => s.pendingLen = 56#6 + k.setWidth 6
  | .readOut => s.pendingLen = 0#6
  | .responding => s.pendingLen = 0#6 ∧ s.totalLength = 0#64

/-- The legal states: those the rules of 10_state.md allow at rest, and inside a command those the model's steps pass
through (log entry 10), said by the model's fields `activity` and `blockReady` (log entry 9). -/
structure State.Inv (s : State) : Prop where
  /-- every index in 0..63 (R52), in the list's canonical form (log entry 2) -/
  buffer : s.pending.wf = true
  /-- R28, R90 -/
  seqLegal : legalSeq s.seq = true
  /-- R82: `cmd_ready` is 0 exactly while a command is in progress -/
  ready : s.cmdReady = true ↔ s.activity = .rest
  /-- R33, R161: no micro-operation is due at rest, when FINALIZE starts, or at the response instant -/
  settled : s.activity = .rest ∨ s.activity = .padMark ∨ s.activity = .responding → s.midCompression = false
  /-- R25: while a block is due or being compressed the fill index is back at 0. DESIGN CHOICE (log entry 10): R123 writes
  that 0 after the compression. -/
  wrapped : s.midCompression = true → s.pendingLen = 0#6
  /-- R25, R33: the trigger (log entry 9, DEDUCED) stands only before SEED is selected -/
  trigger : s.blockReady = true → s.seq = 0x00#8
  /-- R86: `rsp_valid` is 1 exactly at the response instant -/
  response : s.rspValid = true ↔ s.activity = .responding
  /-- R26 item 4 at rest; R161 and log entries 9 and 10 inside a command -/
  length : s.lengthAgrees
  /-- R151: `bitlen` is the latched bit length until the padding is complete -/
  latch : (s.activity = .padMark ∨ s.activity = .padZeros ∨ ∃ k, s.activity = .padLength k) →
    s.bitlen = mul8_64 s.totalLength

/-- R280, R283: the values the spec gives the initial state. -/
structure State.Initial (s : State) : Prop where
  /-- A, B, C, D -/
  h : s.h = ⟨0x67452301#32, 0xefcdab89#32, 0x98badcfe#32, 0x10325476#32⟩
  /-- `total_length` -/
  totalLength : s.totalLength = 0#64
  /-- `pending_len` -/
  pendingLen : s.pendingLen = 0#6
  /-- `seq` -/
  seq : s.seq = 0x00#8
  /-- `cmd_ready` -/
  cmdReady : s.cmdReady = true
  /-- `rsp_valid` -/
  rspValid : s.rspValid = false

/-- `n` steps in a row, stopping at the first refusal. -/
def runSteps (n : Nat) (s : State) : Host.Outcome State Fault Refusal :=
  match n with
  | 0 => .next s
  | n + 1 =>
    match step s with
    | .next t => runSteps n t
    | .fault r => .fault r
    | .refused r => .refused r

/-- An instruction the host can issue (R80). -/
def isCommand (i : Instr) : Bool :=
  match encode i with
  | .cmd _ => true
  | .seq _ => false

/-- What no instruction and no reset touches: the host agent's remaining acts and the model's level of detail. -/
def State.sameHost (s t : State) : Prop := t.hostActs = s.hostActs ∧ t.detail = s.detail

end Sys2Proof.Machine
end

