-- ==== Sys2Proof/Certificates/Slice0/Obligations.lean ====
section
/-!
DEFINITION. The statements for the provers. Each says which rules of spec/ it formalises.
No statement says what value a command leaves in `w`, `bitlen` or `rsp_digest`: the spec leaves them unspecified at rest
(R30, R34, R36, R86) and the model leaves them free (log entry 1). Where a statement says that nothing else changes, it says
of these three that they keep the value they had; where the spec leaves them unspecified that is the model's choice
(log entry 19), and the statement says so.
-/

open Sys2Proof Sys2Proof.Machine

/-! ### Encoding -/

/-- R83, R90 and the decode table V19: a few words written out from the spec's encodings, of every family. -/
def Obligations.SpecWordsDecodeAsTheTableSays : Prop :=
  decode (.cmd 0b01_01100001#10) = .ok (.absorb 0x61#8) ∧
  decode (.cmd 0b01_11111111#10) = .ok (.absorb 0xff#8) ∧
  decode (.cmd 0b10_00000000#10) = .ok .finalize ∧
  decode (.cmd 0b11_00000000#10) = .ok .reset ∧
  decode (.seq 0b00_000000#8) = .ok .idle ∧
  decode (.seq 0b01_000000#8) = .ok .seed ∧
  decode (.seq 0b10_00_1111#8) = .ok (.roundF 15#6) ∧
  decode (.seq 0b10_01_0000#8) = .ok (.roundG 16#6) ∧
  decode (.seq 0b10_10_1111#8) = .ok (.roundH 47#6) ∧
  decode (.seq 0b10_11_0000#8) = .ok (.roundI 48#6) ∧
  decode (.seq 0b11_000000#8) = .ok .feedfwd

/-- R83, R84, R90: decoding the word of a well-formed instruction gives it back, at every operand. -/
def Obligations.DecodingAnEncodedInstructionGivesItBack : Prop :=
  ∀ i : Instr, i.wellFormed = true → decode (encode i) = .ok i

/-- R83, R90: each word has one meaning: what decodes is well formed and encodes to the word it was decoded from. -/
def Obligations.EncodingADecodedWordGivesItBack : Prop :=
  ∀ (c : Code) (i : Instr), decode c = .ok i → i.wellFormed = true ∧ encode i = c

/-- R83 "The three rows are disjoint", and the same of the table of R90: no word is selected by two rows. -/
def Obligations.NoWordIsSelectedByTwoRows : Prop :=
  (∀ w : CmdWord, (commandRows.filter fun r => r.selects w).length ≤ 1) ∧
  (∀ w : SeqWord, (sequencerRows.filter fun r => r.selects w).length ≤ 1)

/-- R88: of the 1024 command words those with `op` 0b01 are ABSORB, 0x200 is FINALIZE, 0x300 is RESET, and the other 766
are reserved; the decoder calls each of them invalid, and an engine at rest to which one is presented takes no step: it is
refused, whatever else its state is. -/
def Obligations.ReservedCommandWordsAreRefused : Prop :=
  (∀ w : CmdWord, (∃ v, decode (.cmd w) = .ok (.absorb v)) ↔ w.extractLsb' 8 2 = 0b01#2) ∧
  (∀ w : CmdWord, decode (.cmd w) = .ok .finalize ↔ w = 0x200#10) ∧
  (∀ w : CmdWord, decode (.cmd w) = .ok .reset ↔ w = 0x300#10) ∧
  (∀ w : CmdWord, decode (.cmd w) = .error (.reservedCommand w) ↔
    (w.extractLsb' 8 2 = 0b00#2 ∨ (w.extractLsb' 8 2 = 0b10#2 ∧ w.extractLsb' 0 8 ≠ 0x00#8) ∨
      (w.extractLsb' 8 2 = 0b11#2 ∧ w.extractLsb' 0 8 ≠ 0x00#8))) ∧
  ((List.range 1024).filter fun n =>
    decide (decode (.cmd (BitVec.ofNat 10 n)) = .error (.reservedCommand (BitVec.ofNat 10 n)))).length = 766 ∧
  (∀ (w : CmdWord) (rest : List HostAct) (s : State), s.AtRest → s.hostActs = .word w :: rest →
    decode (.cmd w) = .error (.reservedCommand w) → step s = .refused (.reservedCommandWord w))

/-- Where the next instruction stands: on a state whose next instruction is the table word `w`, the step is `exec` of the
instruction `w` decodes to, on a state that has the same registers, buffer and host. -/
def Obligations.FetchWordRunsTheTableInstruction : Prop :=
  ∀ (s : State) (nbits w : Nat) (i : Instr), decodeTableWord nbits w = some i →
    ∃ u : State, step (s.withFetchWord nbits w) = exec i u ∧
      u.h = s.h ∧ u.totalLength = s.totalLength ∧ u.pending = s.pending ∧ u.pendingLen = s.pendingLen ∧
      u.w = s.w ∧ u.bitlen = s.bitlen ∧ u.responses = s.responses ∧ u.hostActs = s.hostActs

/-! ### The step -/

/-- R82, R13: an engine at rest accepts the presented word, and the step is that of its instruction on the state without
the word: whole at the command level, begun at the micro-operation level. -/
def Obligations.StepRunsTheAcceptedCommand : Prop :=
  ∀ (s : State) (w : CmdWord) (rest : List HostAct) (i : Instr),
    s.AtRest → s.hostActs = .word w :: rest → decode (.cmd w) = .ok i →
      (s.detail = .command → step s = exec i { s with hostActs := rest }) ∧
      (s.detail = .micro → step s = startCommand i { s with hostActs := rest })

/-- R33, R90: while a micro-operation is due, the step is that of the micro-operation `seq` names; a pause of the host
passes, a presented word is held. -/
def Obligations.StepRunsTheMicroOperationSeqNames : Prop :=
  ∀ (s : State) (i : Instr), s.midCompression = true → (∀ rest, s.hostActs ≠ .rst :: rest) →
    decode (.seq s.seq) = .ok i → step s = exec i (tick s)

/-- With a command in progress and no micro-operation due, the step is that of the command's control, and what it does is
written out for each activity: the end of a command (R82), PutByte(0x80) (F2 of R161), PutByte(0x00) or the end of the loop
at 56 (F3), PutByte of byte `k` of `bitlen` (F4), the read-out with re-initialisation and response (F5, F6).
R161 gives the effects; that each is one step is the model's choice (log entry 10), `activity` is the model's field (log
entry 9), the values at the end of a command are free (log entry 1), and where nothing is said of `w`, `bitlen` and
`rsp_digest` they keep their values by log entry 19. -/
def Obligations.StepOfABusyEngineIsItsControl : Prop :=
  ∀ s : State, s.midCompression = false → s.cmdReady = false → (∀ rest, s.hostActs ≠ .rst :: rest) →
    let u := tick s
    step s = .next (commandControl u) ∧
    (s.activity = .rest ∨ s.activity = .absorbing ∨ s.activity = .responding →
      ∃ (w : Quad) (b : Length) (d : Digest), step s = .next { u with
        activity := .rest, cmdReady := true, rspValid := false, w := w, bitlen := b, rspDigest := d,
        draws := u.draws + 1 }) ∧
    (s.activity = .padMark → step s = .next { u with
      pending := u.pending.write u.pendingLen.toNat 0x80#8, pendingLen := u.pendingLen + 1#6,
      blockReady := decide (u.pendingLen = 63#6), activity := .padZeros }) ∧
    (s.activity = .padZeros → u.pendingLen ≠ 56#6 → step s = .next { u with
      pending := u.pending.write u.pendingLen.toNat 0x00#8, pendingLen := u.pendingLen + 1#6,
      blockReady := decide (u.pendingLen = 63#6) }) ∧
    (s.activity = .padZeros → u.pendingLen = 56#6 → step s = .next { u with activity := .padLength 0#3 }) ∧
    (∀ k : BitVec 3, s.activity = .padLength k → step s = .next { u with
      pending := u.pending.write u.pendingLen.toNat (u.bitlen.extractLsb' (8 * k.toNat) 8)
      pendingLen := u.pendingLen + 1#6, blockReady := decide (u.pendingLen = 63#6)
      activity := if k = 7#3 then .readOut else .padLength (k + 1#3) }) ∧
    (s.activity = .readOut → step s = .next { u with
      h := ⟨0x67452301#32, 0xefcdab89#32, 0x98badcfe#32, 0x10325476#32⟩, totalLength := 0#64, pendingLen := 0#6
      seq := 0x00#8, blockReady := false, rspValid := true, rspDigest := u.h.d ++ u.h.c ++ u.h.b ++ u.h.a
      responses := u.responses ++ [u.h.d ++ u.h.c ++ u.h.b ++ u.h.a], activity := .responding })

/-- R262, R90 (row IDLE): "at rest the engine simply holds its state until the next command". That the three unspecified
values `w`, `bitlen`, `rsp_digest` stand too is log entry 19; that a pause is one step is log entry 6. -/
def Obligations.AtRestTheEngineHoldsItsState : Prop :=
  ∀ s : State, s.AtRest →
    (s.hostActs = [] → step s = .next s) ∧
    (∀ rest, s.hostActs = .pause :: rest → step s = .next { s with hostActs := rest })

/-- R82: a word presented while a command is in progress is not accepted and has no effect: the step is the one the engine
takes with no word presented, and the host still holds the word. -/
def Obligations.AWordPresentedToABusyEngineIsHeld : Prop :=
  ∀ (s : State) (w : CmdWord) (rest : List HostAct), s.Inv → s.cmdReady = false → s.hostActs = .word w :: rest →
    ∃ t : State, step s = .next t ∧ t.hostActs = s.hostActs ∧
      step { s with hostActs := [] } = .next { t with hostActs := [] }

/-- A command begun at the micro-operation level lowers `cmd_ready` at its acceptance (R82); FINALIZE has latched the bit
length (R151) and nothing else, ABSORB has counted and stored its byte (R121), and the write at index 63 is the compress
trigger (R25).
The rules give these effects and their order. That a command runs at this level is log entry 5; that the acceptance step
holds F1 for FINALIZE, and the count, the write and the wrapped `pending_len` for ABSORB, is log entry 10 (both the model's
choice); `activity` is log entry 9; that `rsp_digest`, `w` and the `bitlen` of an ABSORB keep their values is log entry 19. -/
def Obligations.AcceptanceLowersReady : Prop :=
  ∀ (s : State) (rest : List HostAct), s.AtRest → s.detail = .micro →
    (s.hostActs = .word 0x200#10 :: rest → step s = .next { s with
      hostActs := rest, bitlen := s.totalLength * 8#64, cmdReady := false, activity := .padMark }) ∧
    (∀ v : Byte, s.hostActs = .word (0b01#2 ++ v) :: rest → step s = .next { s with
      hostActs := rest, totalLength := s.totalLength + 1#64, pending := s.pending.write s.pendingLen.toNat v,
      pendingLen := s.pendingLen + 1#6, blockReady := decide (s.pendingLen = 63#6), cmdReady := false,
      activity := .absorbing })

/-- R281, R253: `rst` wins over everything: the command in progress is abandoned without a response, a word behind it is
not accepted, and the state is the initial one. At the response instant itself, where the spec does not say whether the
FINALIZE counts as abandoned, that its response stays in `responses` is the model's choice (log entry 21). -/
def Obligations.HardwareResetAbandonsEverything : Prop :=
  ∀ (s : State) (rest : List HostAct), s.hostActs = .rst :: rest →
    ∃ t : State, step s = .next t ∧ t.Initial ∧ t.AtRest ∧ t.hashState = HashState.initial ∧
      t.responses = s.responses ∧ t.hostActs = rest

/-! ### The commands -/

/-- R120: RESET in every state. The buffer's cells are not cleared, no response is made, and whatever follows, a second
RESET changes nothing of the persistent state. -/
def Obligations.ResetGivesTheInitialState : Prop :=
  ∀ s : State, ∃ t : State, exec .reset s = .next t ∧ t.Initial ∧ t.AtRest ∧ t.hashState = HashState.initial ∧
    t.pending = s.pending ∧ t.responses = s.responses ∧ s.sameHost t ∧
    ∃ u : State, exec .reset t = .next u ∧ u.hashState = t.hashState

/-- R121 with R122 and R123: ABSORB v in every state with a canonical buffer. The count grows by one, mod 2^64, and v is stored
at index `pending_len` and nowhere else. Below index 63 the fill index grows by one and the accumulators keep their values;
at index 63 the 64 bytes are compressed into the accumulators inside the command and the buffer is empty afterwards. No
response, nothing else persistent, nothing of the host changes. `w`, `bitlen` and `rsp_digest` are transient: R30, R36 and
R86 leave them unspecified at rest, so nothing is said of them. -/
def Obligations.AbsorbStoresAByteAndCompressesAFullBlock : Prop :=
  ∀ (v : Byte) (s : State), s.pending.wf = true →
    ∃ t : State, exec (.absorb v) s = .next t ∧
      t.totalLength = s.totalLength + 1#64 ∧
      t.pending.read s.pendingLen.toNat = v ∧
      (∀ k, k ≠ s.pendingLen.toNat → t.pending.read k = s.pending.read k) ∧
      (s.pendingLen ≠ 63#6 →
        t.h = s.h ∧ t.pendingLen = s.pendingLen + 1#6 ∧ t.seq = s.seq ∧ t.blockReady = s.blockReady) ∧
      (s.pendingLen = 63#6 →
        t.h = compressBlock (s.pending.bytes 63 ++ [v]) s.h ∧ t.pendingLen = 0#6 ∧ t.seq = 0x00#8 ∧
          t.blockReady = false) ∧
      t.activity = .rest ∧ t.cmdReady = true ∧ t.rspValid = false ∧ t.responses = s.responses ∧ s.sameHost t

/-- R155, with R150, R156, R87, R157: FINALIZE in a state whose two counts agree (R26 item 4) compresses exactly one block
when `pending_len` is at most 55 and exactly two otherwise, those the rule writes out; the response is the digest of the
accumulators after them; the state is initial afterwards. The last clause but one says that the 64 cells hold the last block: R24, R36 and R283 call
them unspecified there, so that clause is the model's (log entry 4, DEDUCED). -/
def Obligations.FinalizeCompressesTheOneOrTwoFinalBlocks : Prop :=
  ∀ s : State, s.pending.wf = true → s.pendingLen = s.totalLength.setWidth 6 →
    let l := s.pendingLen.toNat
    let content := s.pending.bytes l
    let field := bytesLe (s.totalLength * 8#64) 8
    let last := if l ≤ 55 then content ++ [0x80#8] ++ List.replicate (55 - l) 0x00#8 ++ field
      else List.replicate 56 0x00#8 ++ field
    let before := if l ≤ 55 then s.h
      else compressBlock (content ++ [0x80#8] ++ List.replicate (63 - l) 0x00#8) s.h
    let q := compressBlock last before
    ∃ t : State, exec .finalize s = .next t ∧
      t.responses = s.responses ++ [q.d ++ q.c ++ q.b ++ q.a] ∧
      busBytes (q.d ++ q.c ++ q.b ++ q.a) = digestBytes q ∧
      t.Initial ∧ t.AtRest ∧ t.hashState = HashState.initial ∧ t.pending.bytes 64 = last ∧ s.sameHost t

/-- R159, R157: FINALIZE succeeds in every state, makes one response and leaves the initial state; with nothing absorbed
the digest is that of the empty message, d41d8cd98f00b204e9800998ecf8427e, whatever the stale cells hold. -/
def Obligations.FinalizeAlwaysSucceeds : Prop :=
  ∀ s : State, ∃ (t : State) (d : Digest), exec .finalize s = .next t ∧ t.responses = s.responses ++ [d] ∧
    t.Initial ∧ t.AtRest ∧ t.hashState = HashState.initial ∧ s.sameHost t ∧
    (s.pending.wf = true → s.hashState = HashState.initial →
      hexChars (busBytes d) = "d41d8cd98f00b204e9800998ecf8427e".toList)

/-- R158, R30, R21: what a command does to the persistent state, and what it responds, depends on the persistent state
only: neither the transient state nor the stale cells of the buffer are read. -/
def Obligations.CommandsReadThePersistentStateOnly : Prop :=
  ∀ (i : Instr) (s₁ s₂ : State), isCommand i = true → s₁.pending.wf = true → s₂.pending.wf = true →
    s₁.hashState = s₂.hashState →
    ∃ (t₁ t₂ : State) (new : List Digest), exec i s₁ = .next t₁ ∧ exec i s₂ = .next t₂ ∧
      t₁.hashState = t₂.hashState ∧ t₁.responses = s₁.responses ++ new ∧ t₂.responses = s₂.responses ++ new

/-- R162: after FINALIZE the engine behaves as one that has just been reset: every sequence of commands leads to the same
persistent state and makes the same responses. -/
def Obligations.FinalizeLeavesAFreshEngine : Prop :=
  ∀ (cs : List Instr) (s : State), s.pending.wf = true → (∀ i ∈ cs, isCommand i = true) →
    ∃ (f r f' r' : State) (new : List Digest), exec .finalize s = .next f ∧ exec .reset s = .next r ∧
      execAll cs f = .next f' ∧ execAll cs r = .next r' ∧ f'.hashState = r'.hashState ∧
      f'.responses = f.responses ++ new ∧ r'.responses = r.responses ++ new

/-- R86: only FINALIZE makes a response. -/
def Obligations.OnlyFinalizeResponds : Prop :=
  ∀ (i : Instr) (s t : State), exec i s = .next t → i ≠ .finalize → t.responses = s.responses

/-- R250, R251: no instruction raises an exception or stops: each answers a next state in every state. -/
def Obligations.EveryInstructionCompletesInEveryState : Prop :=
  ∀ (i : Instr) (s : State), ∃ t : State, exec i s = .next t

/-! ### The padding -/

/-- R151: the bit length is eight times the byte count mod 2^64; its low three bits are 0. -/
def Obligations.BitLengthIsEightTimesTheByteCount : Prop :=
  ∀ n : Length, (mul8_64 n).toNat = 8 * n.toNat % 2 ^ 64 ∧ (mul8_64 n).extractLsb' 0 3 = 0#3

/-- R153: the zero count is the least z with (total_length + 1 + z) mod 64 = 56, at most 63, and the hardware can read it
off the 6-bit fill length. -/
def Obligations.ZeroCountIsTheLeastThatAligns : Prop :=
  ∀ n : Length,
    (n.toNat + 1 + zeroCount n) % 64 = 56 ∧ (∀ z, (n.toNat + 1 + z) % 64 = 56 → zeroCount n ≤ z) ∧
    zeroCount n ≤ 63 ∧
    (n.toNat % 64 ≤ 55 → zeroCount n = 55 - n.toNat % 64) ∧
    (56 ≤ n.toNat % 64 → zeroCount n = 119 - n.toNat % 64)

/-- R152: the padding is 0x80, the zeros, then the eight bytes of the bit length, least significant first; its length is
between 9 and 72. -/
def Obligations.PaddingIsMarkZerosLength : Prop :=
  ∀ (n b : Length), padding n b =
      [0x80#8] ++ List.replicate (zeroCount n) 0x00#8 ++
        [b.extractLsb' 0 8, b.extractLsb' 8 8, b.extractLsb' 16 8, b.extractLsb' 24 8,
          b.extractLsb' 32 8, b.extractLsb' 40 8, b.extractLsb' 48 8, b.extractLsb' 56 8] ∧
    (padding n b).length = zeroCount n + 9 ∧ 9 ≤ (padding n b).length ∧ (padding n b).length ≤ 72

/-! ### The micro-operations -/

/-- R90, row IDLE: no operation; SEED is selected when a block completes, else IDLE again. Nothing else changes; for the
values the spec leaves unspecified that is log entry 19. -/
def Obligations.IdleSelectsSeedWhenABlockCompletes : Prop :=
  ∀ s : State,
    (s.blockReady = true → exec .idle s = .next { s with seq := 0x40#8, blockReady := false }) ∧
    (s.blockReady = false → exec .idle s = .next { s with seq := 0x00#8 })

/-- R182: SEED copies the accumulators into the working registers and selects round 0; nothing else changes. That
`rsp_digest`, and `bitlen` outside FINALIZE, keep their unspecified values is the model's choice (log entry 19). -/
def Obligations.SeedCopiesTheAccumulators : Prop :=
  ∀ s : State, exec .seed s = .next { s with w := ⟨s.h.a, s.h.b, s.h.c, s.h.d⟩, seq := 0x80#8 }

/-- R184 (with R183): ROUND_F, rounds 0..15: b selects c or d; S = 7, 12, 17, 22; g(i) = i. Nothing but the working
registers and `seq` changes; for `rsp_digest`, and `bitlen` outside FINALIZE, that is the model's choice (log entry 19). -/
def Obligations.RoundFTransformsTheWorkingRegisters : Prop :=
  ∀ (i : RoundIndex) (s : State), i.toNat ≤ 15 →
    let f := (s.w.b &&& s.w.c) ||| (~~~s.w.b &&& s.w.d)
    let t := s.w.a + f + roundConstant i + s.pending.word i.toNat
    let nb := s.w.b + t.rotateLeft ([7, 12, 17, 22].getD (i.toNat % 4) 0)
    exec (.roundF i) s = .next { s with w := ⟨s.w.d, nb, s.w.b, s.w.c⟩, seq := s.seq + 1#8 }

/-- R185 (with R183): ROUND_G, rounds 16..31: d selects b or c; S = 5, 9, 14, 20; g(i) = (5i + 1) mod 16. Nothing else
changes; for `rsp_digest`, and `bitlen` outside FINALIZE, that is the model's choice (log entry 19). -/
def Obligations.RoundGTransformsTheWorkingRegisters : Prop :=
  ∀ (i : RoundIndex) (s : State), 16 ≤ i.toNat → i.toNat ≤ 31 →
    let f := (s.w.b &&& s.w.d) ||| (s.w.c &&& ~~~s.w.d)
    let t := s.w.a + f + roundConstant i + s.pending.word ((5 * i.toNat + 1) % 16)
    let nb := s.w.b + t.rotateLeft ([5, 9, 14, 20].getD (i.toNat % 4) 0)
    exec (.roundG i) s = .next { s with w := ⟨s.w.d, nb, s.w.b, s.w.c⟩, seq := s.seq + 1#8 }

/-- R186 (with R183): ROUND_H, rounds 32..47: parity; S = 4, 11, 16, 23; g(i) = (3i + 5) mod 16. Nothing else
changes; for `rsp_digest`, and `bitlen` outside FINALIZE, that is the model's choice (log entry 19). -/
def Obligations.RoundHTransformsTheWorkingRegisters : Prop :=
  ∀ (i : RoundIndex) (s : State), 32 ≤ i.toNat → i.toNat ≤ 47 →
    let f := s.w.b ^^^ s.w.c ^^^ s.w.d
    let t := s.w.a + f + roundConstant i + s.pending.word ((3 * i.toNat + 5) % 16)
    let nb := s.w.b + t.rotateLeft ([4, 11, 16, 23].getD (i.toNat % 4) 0)
    exec (.roundH i) s = .next { s with w := ⟨s.w.d, nb, s.w.b, s.w.c⟩, seq := s.seq + 1#8 }

/-- R187 (with R183): ROUND_I, rounds 48..63: c xor (b or not d); S = 6, 10, 15, 21; g(i) = 7i mod 16. Nothing else
changes; for `rsp_digest`, and `bitlen` outside FINALIZE, that is the model's choice (log entry 19). -/
def Obligations.RoundITransformsTheWorkingRegisters : Prop :=
  ∀ (i : RoundIndex) (s : State), 48 ≤ i.toNat →
    let f := s.w.c ^^^ (s.w.b ||| ~~~s.w.d)
    let t := s.w.a + f + roundConstant i + s.pending.word ((7 * i.toNat) % 16)
    let nb := s.w.b + t.rotateLeft ([6, 10, 15, 21].getD (i.toNat % 4) 0)
    exec (.roundI i) s = .next { s with w := ⟨s.w.d, nb, s.w.b, s.w.c⟩, seq := s.seq + 1#8 }

/-- R188: FEEDFWD adds the working registers into the accumulators, each mod 2^32 with no carry between them, and selects
IDLE; nothing else changes. That `rsp_digest`, and `bitlen` outside FINALIZE, keep their unspecified values is the model's
choice (log entry 19). -/
def Obligations.FeedForwardAddsTheWorkingRegisters : Prop :=
  ∀ s : State, exec .feedfwd s =
    .next { s with h := ⟨s.h.a + s.w.a, s.h.b + s.w.b, s.h.c + s.w.c, s.h.d + s.w.d⟩, seq := 0x00#8 }

/-! ### The arithmetic -/

/-- R194, by every bit: F and G are selectors, H is parity, I is c xor (b or not d); F(b,c,d) = G(c,d,b). -/
def Obligations.MixingFunctionsByBit : Prop :=
  ∀ (b c d : Word) (k : Nat), k < 32 →
    (mixF b c d).getLsbD k = (if b.getLsbD k then c.getLsbD k else d.getLsbD k) ∧
    (mixG b c d).getLsbD k = (if d.getLsbD k then b.getLsbD k else c.getLsbD k) ∧
    (mixH b c d).getLsbD k = ((b.getLsbD k).xor (c.getLsbD k)).xor (d.getLsbD k) ∧
    (mixI b c d).getLsbD k = (c.getLsbD k).xor (b.getLsbD k || !d.getLsbD k) ∧
    mixF b c d = mixG c d b

/-- R193: a rotation by 1 to 31 moves bit k to bit (k + s) mod 32, and only the sixteen listed amounts occur. -/
def Obligations.RotationMovesEveryBit : Prop :=
  (∀ (x : Word) (s k : Nat), 1 ≤ s → s ≤ 31 → k < 32 → (rotl32 x s).getLsbD ((k + s) % 32) = x.getLsbD k) ∧
  (∀ i : RoundIndex, rotationAmount i ∈ [4, 5, 6, 7, 9, 10, 11, 12, 14, 15, 16, 17, 20, 21, 22, 23])

/-- R95: the message index of every round by its group, and that within each group every message word is read once. -/
def Obligations.MessageScheduleIsFourPermutations : Prop :=
  (∀ i : RoundIndex,
    (i.toNat ≤ 15 → messageIndex i = i.toNat) ∧
    (16 ≤ i.toNat → i.toNat ≤ 31 → messageIndex i = (5 * i.toNat + 1) % 16) ∧
    (32 ≤ i.toNat → i.toNat ≤ 47 → messageIndex i = (3 * i.toNat + 5) % 16) ∧
    (48 ≤ i.toNat → messageIndex i = (7 * i.toNat) % 16)) ∧
  ∀ group, group < 4 →
    ((List.range 16).map fun p => messageIndex (BitVec.ofNat 6 (16 * group + p))).Perm (List.range 16)

/-- R10, R57: words and bytes are little-endian both ways: the word of a word's four bytes is the word, and the bytes of the
word of four bytes are those bytes. -/
def Obligations.WordsAndBytesAreLittleEndian : Prop :=
  (∀ v : Word, le32 (v.extractLsb' 0 8) (v.extractLsb' 8 8) (v.extractLsb' 16 8) (v.extractLsb' 24 8) = v) ∧
  (∀ b0 b1 b2 b3 : Byte, bytesLe (le32 b0 b1 b2 b3) 4 = [b0, b1, b2, b3] ∧
    (le32 b0 b1 b2 b3).toNat = b0.toNat + 2 ^ 8 * b1.toNat + 2 ^ 16 * b2.toNat + 2 ^ 24 * b3.toNat)

/-- R87, R56: the response bus of four accumulators is {D, C, B, A}; its byte 4j + k is byte k of accumulator j. -/
def Obligations.ResponseBusIsDCBA : Prop :=
  ∀ q : Quad, digestBus (digestBytes q) = q.d ++ q.c ++ q.b ++ q.a ∧
    ∀ k, k < 4 →
      busByte (digestBus (digestBytes q)) k = q.a.extractLsb' (8 * k) 8 ∧
      busByte (digestBus (digestBytes q)) (4 + k) = q.b.extractLsb' (8 * k) 8 ∧
      busByte (digestBus (digestBytes q)) (8 + k) = q.c.extractLsb' (8 * k) 8 ∧
      busByte (digestBus (digestBytes q)) (12 + k) = q.d.extractLsb' (8 * k) 8

/-! ### The compression step -/

/-- R191, R180: from SEED exactly 66 steps reach IDLE, with no choice at any step; the accumulators are then Compress of the
block, and nothing but `h`, `w` and `seq` has changed; for `rsp_digest`, and `bitlen` outside FINALIZE, that is the model's
choice (log entry 19). -/
def Obligations.CompressionTakesSixtySixSteps : Prop :=
  ∀ s : State, s.seq = 0x40#8 → s.hostActs = [] →
    runSteps 66 s = .next { s with
      h := compressFn s.pending.word s.h, w := roundsFn s.pending.word s.h, seq := 0x00#8 } ∧
    ∀ n, n < 66 → ∃ u : State, runSteps n s = .next u ∧ u.seq ≠ 0x00#8

/-- R189: the rounds written without moving registers give the same 64 rounds. -/
def Obligations.UnrolledRoundsAgree : Prop :=
  ∀ (msg : Nat → Word) (w : Quad), unrolledRounds msg w = roundsFn msg w

/-! ### Messages -/

/-- R130, the list form of UPDATE. -/
def Obligations.UpdateHasTheListForm : Prop :=
  ∀ (bs : List Byte) (s : State), s.pending.wf = true →
    let all := s.hashState.content ++ bs
    let q := all.length / 64
    (update bs s).hashState =
      ⟨foldBlocks q all s.h, s.totalLength + BitVec.ofNat 64 bs.length, all.drop (64 * q)⟩ ∧
    (update bs s).pendingLen.toNat = all.length % 64

/-- R131: UPDATE and its burst of ABSORB commands leave the same persistent state. -/
def Obligations.UpdateEqualsItsBurst : Prop :=
  ∀ (bs : List Byte) (s : State), s.pending.wf = true →
    ∃ t : State, execAll (burst bs) s = .next t ∧ t.hashState = (update bs s).hashState

/-- R129, in the stronger form: the way a message is split into UPDATE commands leaves no trace in the persistent state. -/
def Obligations.ChunkingLeavesNoTrace : Prop :=
  ∀ (xs ys : List Byte) (s : State), s.pending.wf = true →
    (update ys (update xs s)).hashState = (update (xs ++ ys) s).hashState

/-- R26 items 4 and 5: after any message the accumulators are those of its whole blocks in order, and the buffer holds the
rest, whose length is the count mod 64. -/
def Obligations.AbsorbedMessageDeterminesThePersistentState : Prop :=
  ∀ (m : List Byte) (s : State), s.pending.wf = true → s.hashState = HashState.initial →
    ∃ t : State, execAll (burst m) s = .next t ∧
      t.hashState = ⟨foldBlocks (m.length / 64) m initQuad, BitVec.ofNat 64 m.length, m.drop (64 * (m.length / 64))⟩ ∧
      t.pendingLen = t.totalLength.setWidth 6

/-- R163: run by the machine's own steps from a freshly reset engine, the words of any message and FINALIZE make one
response, the digest of the message as the rule defines it, and leave the initial state. The engine is at the command
level (`detail`, log entry 5), where a command is one step (R13). -/
def Obligations.EveryMessageGetsItsDigest : Prop :=
  ∀ (m : List Byte) (s : State) (rest : List HostAct), s.AtRest → s.pending.wf = true → s.detail = .command →
    s.hashState = HashState.initial →
    s.hostActs = presentWords (scriptWords [.update (.hex m), .finalize]) ++ rest →
    ∃ t : State, runSteps (m.length + 1) s = .next t ∧
      t.responses = s.responses ++ [digestBus (digestOf m)] ∧ t.hashState = HashState.initial ∧ t.hostActs = rest

/-- R232: ONESHOT of any message, on an engine at rest that may be in the middle of another message, responds with the
message's digest. The engine is at the command level (`detail`, log entry 5), where a command is one step (R13). -/
def Obligations.OneShotRespondsWithTheDigest : Prop :=
  ∀ (m : List Byte) (s : State), s.AtRest → s.pending.wf = true → s.detail = .command →
    s.hostActs = presentWords (scriptWords [.oneshot (.hex m)]) →
    ∃ t : State, runSteps (m.length + 2) s = .next t ∧
      t.responses = s.responses ++ [digestBus (digestOf m)] ∧ t.hashState = HashState.initial ∧ t.hostActs = []

/-- R231: HEX is a one-to-one map between lists of 16 bytes and strings of 32 digits [0-9a-f], and decoding inverts it. -/
def Obligations.HexIsABijection : Prop :=
  (∀ d : List Byte, d.length = 16 →
    (hexChars d).length = 32 ∧ (∀ c ∈ hexChars d, c ∈ hexDigits) ∧ unhex (hexChars d) = some d) ∧
  (∀ cs : List Char, cs.length = 32 → (∀ c ∈ cs, c ∈ hexDigits) → ∃ d : List Byte, d.length = 16 ∧ hexChars d = cs)

/-! ### The whole machine -/

/-- R280, R283: the state after reset is at rest, with the values the spec gives; and it is a legal one in the sense of
State.Inv, whose clauses about `activity`, `blockReady` and the inside of a command are the model's (log entries 9 and 10). -/
def Obligations.ResetStateIsLegal : Prop :=
  State.reset.Inv ∧ State.reset.AtRest ∧ State.reset.Initial ∧ State.reset.hashState = HashState.initial

/-- Every step from a legal state leads to a legal state (State.Inv).
The rules give: buffer indexes in 0..63 (R25, R52), `seq` legal (R28, R90), `pending_len` = `total_length` mod 64 at rest
(R26 item 4), `cmd_ready` 0 while a command is in progress (R82), `rsp_valid` 1 at the response instant only (R86), and
`bitlen` latched before the padding (R151).
The model's are: the fields `activity` and `blockReady` that the clauses `ready`, `settled`, `trigger`, `response`, `length`
and `latch` are said by (log entry 9, DEDUCED); the clause `wrapped`, `pending_len` = 0 while a block is due or compressed,
which takes R25 against R123 (log entry 10, DESIGN CHOICE); `pending_len` inside a command (`lengthAgrees`, from the lines of
R161 as log entry 10 cuts them into steps); and the canonical form of the buffer's list (log entry 2). -/
def Obligations.EveryStepKeepsTheStateLegal : Prop :=
  ∀ s t : State, s.Inv → step s = .next t → t.Inv

/-- R250, R88: from a legal state the machine stops for one reason only: a reserved command word presented at rest. -/
def Obligations.OnlyReservedCommandWordsStop : Prop :=
  ∀ (s : State), s.Inv →
    (∃ t : State, step s = .next t) ∨
    (∃ (w : CmdWord) (rest : List HostAct), s.AtRest ∧ s.hostActs = .word w :: rest ∧
      decode (.cmd w) = .error (.reservedCommand w) ∧ step s = .refused (.reservedCommandWord w))

/-- R161, R191, R13: a command run micro-operation by micro-operation ends, within 210 steps, in exactly the state the
command has as one atomic step, with `cmd_ready` 0 at every step between. The micro-operation level is log entry 5 and the
count of steps log entry 10; that the unspecified values agree as well, since both runs draw once, is log entry 22 (all the
model's choice). The host has nothing else to do here; FurtherHostActsWaitForTheCommand is about a host that has. -/
def Obligations.MicroOperationRunEqualsTheCommand : Prop :=
  ∀ (s : State) (w : CmdWord) (i : Instr), s.AtRest → s.pending.wf = true →
    s.pendingLen = s.totalLength.setWidth 6 → s.detail = .micro → s.hostActs = [.word w] →
    decode (.cmd w) = .ok i →
    ∃ (n : Nat) (t : State), 1 ≤ n ∧ n ≤ 210 ∧ runSteps n s = .next t ∧ exec i { s with hostActs := [] } = .next t ∧
      ∀ k, 1 ≤ k → k < n → ∃ u : State, runSteps k s = .next u ∧ u.cmdReady = false

/-- R82, R263: what the host does while a command is in progress waits for it. If a quiet host sees a run of `m` steps with
`cmd_ready` = 0 at the start of each, then a host that first lets `p` steps pass and then has nothing to do, or holds a word,
sees the same run; it has let at most `p` of the steps pass, and the word is still held. A step is log entry 10, the host's
list of acts log entry 6 (the model's choices). An `rst` is HardwareResetAbandonsEverything. -/
def Obligations.FurtherHostActsWaitForTheCommand : Prop :=
  ∀ (m p : Nat) (s t : State) (rest : List HostAct), s.hostActs = [] →
    (rest = [] ∨ ∃ (w : CmdWord) (r : List HostAct), rest = .word w :: r) →
    (∀ k, k < m → ∃ u : State, runSteps k s = .next u ∧ u.cmdReady = false) → runSteps m s = .next t →
    runSteps m { s with hostActs := List.replicate p .pause ++ rest } =
      .next { t with hostActs := List.replicate (p - m) .pause ++ rest }

/-- R287: "`cmd_ready` always returns to 1": from every legal state with a command in progress, within 209 steps. -/
def Obligations.EveryCommandFinishes : Prop :=
  ∀ s : State, s.Inv → s.cmdReady = false → s.hostActs = [] →
    ∃ (n : Nat) (t : State), n ≤ 209 ∧ runSteps n s = .next t ∧ t.cmdReady = true

/-- In the micro-operation run the digest stands on the response port at one instant (R158), `rsp_valid` = 1 with
`cmd_ready` still 0 (R86) and the accumulators already initial (R157); after it `rsp_valid` is 0 and `cmd_ready` 1.
The rules give this order. That the read-out is one step, and the return of `cmd_ready` the very next, is the model's choice
(log entry 10); the activity `readOut` is its field (log entry 9). -/
def Obligations.ResponseInstantPrecedesReady : Prop :=
  ∀ s : State, s.Inv → s.activity = .readOut → s.midCompression = false → s.hostActs = [] →
    ∃ t u : State, step s = .next t ∧
      t.rspValid = true ∧ t.rspDigest = s.h.d ++ s.h.c ++ s.h.b ++ s.h.a ∧ t.cmdReady = false ∧
      t.responses = s.responses ++ [s.h.d ++ s.h.c ++ s.h.b ++ s.h.a] ∧ t.hashState = HashState.initial ∧
      step t = .next u ∧ u.rspValid = false ∧ u.cmdReady = true ∧ u.responses = t.responses ∧
      u.hashState = HashState.initial

/-- R258: engines do not interact: a step of one leaves every other as it was, and two engines may step in either order. -/
def Obligations.InstancesDoNotInteract : Prop :=
  ∀ (j k : Nat) (es : List State) (s s' t t' : State), j ≠ k → es[j]? = some s → es[k]? = some s' →
    step s = .next t → step s' = .next t' →
    ∃ f g e : List State, stepInstance j es = .next f ∧ stepInstance k f = .next e ∧
      stepInstance k es = .next g ∧ stepInstance j g = .next e ∧
      e[j]? = some t ∧ e[k]? = some t' ∧ ∀ n, n ≠ j → n ≠ k → e[n]? = es[n]?
end

