-- ==== Sys2Proof/Laws/Memory.lean ====
section
/-!
SUPPORT. The laws of the pending buffer: a read after a write, and the canonical form.
-/

namespace Sys2Proof.Machine

@[simp] theorem Memory.read_nil (k : Nat) : Memory.read [] k = Config.unlistedByte := rfl

@[simp] theorem Memory.wf_nil : Memory.wf [] = true := rfl

/-- What the canonical form says of a listed cell and of the rest. -/
theorem Memory.wfFrom_cons (lo k : Nat) (v : Byte) (m : Memory) :
    Memory.wfFrom lo ((k, v) :: m) = true ↔
      lo ≤ k ∧ k < Config.blockBytes ∧ v ≠ Config.unlistedByte ∧ Memory.wfFrom (k + 1) m = true := by
  simp [Memory.wfFrom, and_assoc]

theorem Memory.wfFrom_mono {lo hi : Nat} (hle : lo ≤ hi) (m : Memory) (h : Memory.wfFrom hi m = true) :
    Memory.wfFrom lo m = true := by
  cases m with
  | nil => rfl
  | cons c rest =>
    obtain ⟨k, v⟩ := c
    rw [Memory.wfFrom_cons] at h ⊢
    exact ⟨by omega, h.2⟩

/-- A canonical buffer lists nothing below its bound. -/
theorem Memory.read_below {lo k : Nat} (m : Memory) (h : Memory.wfFrom lo m = true) (hk : k < lo) :
    m.read k = Config.unlistedByte := by
  induction m generalizing lo with
  | nil => rfl
  | cons c rest ih =>
    obtain ⟨j, v⟩ := c
    rw [Memory.wfFrom_cons] at h
    have hj : j ≠ k := by omega
    simp only [Memory.read, if_neg hj]
    exact ih h.2.2.2 (by omega)

/-- A read after a write to the same cell gives the byte written. -/
theorem Memory.read_write_same_from {lo : Nat} (m : Memory) (k : Nat) (v : Byte) (h : Memory.wfFrom lo m = true) :
    (m.write k v).read k = v := by
  induction m generalizing lo with
  | nil => by_cases hv : v = Config.unlistedByte <;> simp [Memory.write, Memory.read, hv]
  | cons c rest ih =>
    obtain ⟨j, u⟩ := c
    rw [Memory.wfFrom_cons] at h
    simp only [Memory.write]
    split
    · rename_i hlt
      split
      · rename_i hv
        have hj : j ≠ k := by omega
        simp only [Memory.read, if_neg hj]
        rw [hv]
        exact Memory.read_below rest h.2.2.2 (by omega)
      · simp [Memory.read]
    · split
      · rename_i hkj
        split
        · rename_i hv
          rw [hv]
          exact Memory.read_below rest h.2.2.2 (by omega)
        · simp [Memory.read]
      · rename_i hkj
        have hj : j ≠ k := fun e => hkj e.symm
        simp only [Memory.read, if_neg hj]
        exact ih h.2.2.2

theorem Memory.read_write_same (m : Memory) (k : Nat) (v : Byte) (h : m.wf = true) : (m.write k v).read k = v :=
  Memory.read_write_same_from m k v h

/-- A write leaves every other cell alone. -/
theorem Memory.read_write_other (m : Memory) (k j : Nat) (v : Byte) (hjk : j ≠ k) :
    (m.write k v).read j = m.read j := by
  induction m with
  | nil =>
    by_cases hv : v = Config.unlistedByte
    · simp [Memory.write, hv]
    · simp [Memory.write, Memory.read, hv, Ne.symm hjk]
  | cons c rest ih =>
    obtain ⟨i, u⟩ := c
    simp only [Memory.write]
    split
    · split
      · rfl
      · simp [Memory.read, Ne.symm hjk]
    · split
      · rename_i hki
        subst hki
        split <;> simp [Memory.read, Ne.symm hjk]
      · simp only [Memory.read, ih]

/-- A write to a cell of the buffer keeps the canonical form. -/
theorem Memory.write_wfFrom {lo : Nat} (m : Memory) (k : Nat) (v : Byte) (hlo : lo ≤ k) (hk : k < Config.blockBytes)
    (h : Memory.wfFrom lo m = true) : Memory.wfFrom lo (m.write k v) = true := by
  induction m generalizing lo with
  | nil =>
    by_cases hv : v = Config.unlistedByte
    · simp [Memory.write, hv, Memory.wfFrom]
    · simp [Memory.write, hv, Memory.wfFrom, hlo, hk]
  | cons c rest ih =>
    obtain ⟨j, u⟩ := c
    have h' := h
    rw [Memory.wfFrom_cons] at h'
    obtain ⟨h1, h2, h3, h4⟩ := h'
    simp only [Memory.write]
    split
    · rename_i hlt
      split
      · exact h
      · rename_i hv
        rw [Memory.wfFrom_cons, Memory.wfFrom_cons]
        exact ⟨hlo, hk, hv, by omega, h2, h3, h4⟩
    · split
      · rename_i hkj
        subst hkj
        split
        · exact Memory.wfFrom_mono (by omega) rest h4
        · rename_i hv
          rw [Memory.wfFrom_cons]
          exact ⟨hlo, hk, hv, h4⟩
      · rw [Memory.wfFrom_cons]
        exact ⟨h1, h2, h3, ih (by omega) h4⟩

theorem Memory.write_wf (m : Memory) (k : Nat) (v : Byte) (hk : k < Config.blockBytes) (h : m.wf = true) :
    (m.write k v).wf = true :=
  Memory.write_wfFrom m k v (Nat.zero_le k) hk h

/-- `pending_len` always names a cell of the buffer (R25). -/
theorem Memory.write_at_fill_wf (m : Memory) (n : BitVec 6) (v : Byte) (h : m.wf = true) :
    (m.write n.toNat v).wf = true :=
  Memory.write_wf m n.toNat v n.isLt h

/-- Successive writes keep the canonical form as long as they stay in the buffer. -/
theorem Memory.writeRun_wf (m : Memory) (k : Nat) (bs : List Byte) (hk : k + bs.length ≤ Config.blockBytes)
    (h : m.wf = true) : (m.writeRun k bs).wf = true := by
  induction bs generalizing m k with
  | nil => exact h
  | cons b rest ih =>
    simp only [List.length_cons] at hk
    exact ih _ _ (by omega) (Memory.write_wf m k b (by omega) h)

/-- Successive writes leave the cells below alone. -/
theorem Memory.read_writeRun_below (m : Memory) (k j : Nat) (bs : List Byte) (hj : j < k) :
    (m.writeRun k bs).read j = m.read j := by
  induction bs generalizing m k with
  | nil => rfl
  | cons b rest ih =>
    simp only [Memory.writeRun]
    rw [ih _ _ (by omega), Memory.read_write_other m k j b (by omega)]

@[simp] theorem Memory.bytes_length (m : Memory) (n : Nat) : (m.bytes n).length = n := by simp [Memory.bytes]

/-- One more cell of the buffer's contents. -/
theorem Memory.bytes_succ (m : Memory) (n : Nat) : m.bytes (n + 1) = m.bytes n ++ [m.read n] := by
  simp [Memory.bytes, List.range_succ]

/-- A write at the fill index leaves the contents below it alone. -/
theorem Memory.bytes_write_above (m : Memory) (k n : Nat) (v : Byte) (h : n ≤ k) :
    (m.write k v).bytes n = m.bytes n := by
  unfold Memory.bytes
  apply List.map_congr_left
  intro j hj
  rw [List.mem_range] at hj
  exact Memory.read_write_other m k j v (by omega)

/-- A write at the fill index appends a byte to the contents. -/
theorem Memory.bytes_write_end (m : Memory) (n : Nat) (v : Byte) (h : m.wf = true) :
    (m.write n v).bytes (n + 1) = m.bytes n ++ [v] := by
  rw [Memory.bytes_succ, Memory.bytes_write_above m n n v le_rfl, Memory.read_write_same m n v h]

/-- R53, R181: the word view of the buffer is the word view of its 64 bytes. -/
theorem Memory.word_eq_blockWord (m : Memory) (g : Nat) (h : g < 16) : m.word g = blockWord (m.bytes 64) g := by
  have hk : ∀ k, k < 64 → (m.bytes 64).getD k 0#8 = m.read k := by
    intro k hk
    simp [Memory.bytes, List.getD, hk]
  simp only [Memory.word, blockWord]
  rw [hk _ (by omega), hk _ (by omega), hk _ (by omega), hk _ (by omega)]

end Sys2Proof.Machine
end

