-- ==== Sys2Proof/Laws/State.lean ====
section
/-!
SUPPORT. For each operation that updates the state, what every field is afterwards.
-/

namespace Sys2Proof.Machine

/-! ### reinit (R36, R120) -/

@[simp] theorem reinit_h (s : State) : (reinit s).h = initQuad := rfl
@[simp] theorem reinit_totalLength (s : State) : (reinit s).totalLength = 0#64 := rfl
@[simp] theorem reinit_pending (s : State) : (reinit s).pending = s.pending := rfl
@[simp] theorem reinit_pendingLen (s : State) : (reinit s).pendingLen = 0#6 := rfl
@[simp] theorem reinit_w (s : State) : (reinit s).w = s.w := rfl
@[simp] theorem reinit_seq (s : State) : (reinit s).seq = 0x00#8 := rfl
@[simp] theorem reinit_bitlen (s : State) : (reinit s).bitlen = s.bitlen := rfl
@[simp] theorem reinit_blockReady (s : State) : (reinit s).blockReady = false := rfl
@[simp] theorem reinit_activity (s : State) : (reinit s).activity = s.activity := rfl
@[simp] theorem reinit_cmdReady (s : State) : (reinit s).cmdReady = s.cmdReady := rfl
@[simp] theorem reinit_rspValid (s : State) : (reinit s).rspValid = s.rspValid := rfl
@[simp] theorem reinit_rspDigest (s : State) : (reinit s).rspDigest = s.rspDigest := rfl
@[simp] theorem reinit_hostActs (s : State) : (reinit s).hostActs = s.hostActs := rfl
@[simp] theorem reinit_responses (s : State) : (reinit s).responses = s.responses := rfl
@[simp] theorem reinit_detail (s : State) : (reinit s).detail = s.detail := rfl
@[simp] theorem reinit_draws (s : State) : (reinit s).draws = s.draws := rfl

/-! ### settle (R30, R82) -/

@[simp] theorem settle_h (s : State) : (settle s).h = s.h := rfl
@[simp] theorem settle_totalLength (s : State) : (settle s).totalLength = s.totalLength := rfl
@[simp] theorem settle_pending (s : State) : (settle s).pending = s.pending := rfl
@[simp] theorem settle_pendingLen (s : State) : (settle s).pendingLen = s.pendingLen := rfl
@[simp] theorem settle_w (s : State) :
    (settle s).w = ⟨Config.freeWorking s.draws 0, Config.freeWorking s.draws 1, Config.freeWorking s.draws 2,
      Config.freeWorking s.draws 3⟩ := rfl
@[simp] theorem settle_seq (s : State) : (settle s).seq = s.seq := rfl
@[simp] theorem settle_bitlen (s : State) : (settle s).bitlen = Config.freeBitlen s.draws := rfl
@[simp] theorem settle_blockReady (s : State) : (settle s).blockReady = s.blockReady := rfl
@[simp] theorem settle_activity (s : State) : (settle s).activity = .rest := rfl
@[simp] theorem settle_cmdReady (s : State) : (settle s).cmdReady = true := rfl
@[simp] theorem settle_rspValid (s : State) : (settle s).rspValid = false := rfl
@[simp] theorem settle_rspDigest (s : State) : (settle s).rspDigest = Config.freeRspDigest s.draws := rfl
@[simp] theorem settle_hostActs (s : State) : (settle s).hostActs = s.hostActs := rfl
@[simp] theorem settle_responses (s : State) : (settle s).responses = s.responses := rfl
@[simp] theorem settle_detail (s : State) : (settle s).detail = s.detail := rfl
@[simp] theorem settle_draws (s : State) : (settle s).draws = s.draws + 1 := rfl

/-! ### respond (R86, R158) -/

@[simp] theorem respond_h (d : List Byte) (s : State) : (respond d s).h = s.h := rfl
@[simp] theorem respond_totalLength (d : List Byte) (s : State) : (respond d s).totalLength = s.totalLength := rfl
@[simp] theorem respond_pending (d : List Byte) (s : State) : (respond d s).pending = s.pending := rfl
@[simp] theorem respond_pendingLen (d : List Byte) (s : State) : (respond d s).pendingLen = s.pendingLen := rfl
@[simp] theorem respond_w (d : List Byte) (s : State) : (respond d s).w = s.w := rfl
@[simp] theorem respond_seq (d : List Byte) (s : State) : (respond d s).seq = s.seq := rfl
@[simp] theorem respond_bitlen (d : List Byte) (s : State) : (respond d s).bitlen = s.bitlen := rfl
@[simp] theorem respond_blockReady (d : List Byte) (s : State) : (respond d s).blockReady = s.blockReady := rfl
@[simp] theorem respond_activity (d : List Byte) (s : State) : (respond d s).activity = s.activity := rfl
@[simp] theorem respond_cmdReady (d : List Byte) (s : State) : (respond d s).cmdReady = s.cmdReady := rfl
@[simp] theorem respond_rspValid (d : List Byte) (s : State) : (respond d s).rspValid = true := rfl
@[simp] theorem respond_rspDigest (d : List Byte) (s : State) : (respond d s).rspDigest = digestBus d := rfl
@[simp] theorem respond_hostActs (d : List Byte) (s : State) : (respond d s).hostActs = s.hostActs := rfl
@[simp] theorem respond_responses (d : List Byte) (s : State) :
    (respond d s).responses = s.responses ++ [digestBus d] := rfl
@[simp] theorem respond_detail (d : List Byte) (s : State) : (respond d s).detail = s.detail := rfl
@[simp] theorem respond_draws (d : List Byte) (s : State) : (respond d s).draws = s.draws := rfl

/-! ### idleOp (R90) -/

@[simp] theorem idleOp_h (s : State) : (idleOp s).h = s.h := rfl
@[simp] theorem idleOp_totalLength (s : State) : (idleOp s).totalLength = s.totalLength := rfl
@[simp] theorem idleOp_pending (s : State) : (idleOp s).pending = s.pending := rfl
@[simp] theorem idleOp_pendingLen (s : State) : (idleOp s).pendingLen = s.pendingLen := rfl
@[simp] theorem idleOp_w (s : State) : (idleOp s).w = s.w := rfl
@[simp] theorem idleOp_seq (s : State) : (idleOp s).seq = if s.blockReady then 0x40#8 else 0x00#8 := rfl
@[simp] theorem idleOp_bitlen (s : State) : (idleOp s).bitlen = s.bitlen := rfl
@[simp] theorem idleOp_blockReady (s : State) : (idleOp s).blockReady = false := rfl
@[simp] theorem idleOp_activity (s : State) : (idleOp s).activity = s.activity := rfl
@[simp] theorem idleOp_cmdReady (s : State) : (idleOp s).cmdReady = s.cmdReady := rfl
@[simp] theorem idleOp_rspValid (s : State) : (idleOp s).rspValid = s.rspValid := rfl
@[simp] theorem idleOp_rspDigest (s : State) : (idleOp s).rspDigest = s.rspDigest := rfl
@[simp] theorem idleOp_hostActs (s : State) : (idleOp s).hostActs = s.hostActs := rfl
@[simp] theorem idleOp_responses (s : State) : (idleOp s).responses = s.responses := rfl
@[simp] theorem idleOp_detail (s : State) : (idleOp s).detail = s.detail := rfl
@[simp] theorem idleOp_draws (s : State) : (idleOp s).draws = s.draws := rfl

/-! ### seedOp (R182) -/

@[simp] theorem seedOp_h (s : State) : (seedOp s).h = s.h := rfl
@[simp] theorem seedOp_totalLength (s : State) : (seedOp s).totalLength = s.totalLength := rfl
@[simp] theorem seedOp_pending (s : State) : (seedOp s).pending = s.pending := rfl
@[simp] theorem seedOp_pendingLen (s : State) : (seedOp s).pendingLen = s.pendingLen := rfl
@[simp] theorem seedOp_w (s : State) : (seedOp s).w = s.h := rfl
@[simp] theorem seedOp_seq (s : State) : (seedOp s).seq = 0x80#8 := rfl
@[simp] theorem seedOp_bitlen (s : State) : (seedOp s).bitlen = s.bitlen := rfl
@[simp] theorem seedOp_blockReady (s : State) : (seedOp s).blockReady = s.blockReady := rfl
@[simp] theorem seedOp_activity (s : State) : (seedOp s).activity = s.activity := rfl
@[simp] theorem seedOp_cmdReady (s : State) : (seedOp s).cmdReady = s.cmdReady := rfl
@[simp] theorem seedOp_rspValid (s : State) : (seedOp s).rspValid = s.rspValid := rfl
@[simp] theorem seedOp_rspDigest (s : State) : (seedOp s).rspDigest = s.rspDigest := rfl
@[simp] theorem seedOp_hostActs (s : State) : (seedOp s).hostActs = s.hostActs := rfl
@[simp] theorem seedOp_responses (s : State) : (seedOp s).responses = s.responses := rfl
@[simp] theorem seedOp_detail (s : State) : (seedOp s).detail = s.detail := rfl
@[simp] theorem seedOp_draws (s : State) : (seedOp s).draws = s.draws := rfl

/-! ### roundOp (R183) -/

@[simp] theorem roundOp_h (f : Word → Word → Word → Word) (i : RoundIndex) (s : State) :
    (roundOp f i s).h = s.h := rfl
@[simp] theorem roundOp_totalLength (f : Word → Word → Word → Word) (i : RoundIndex) (s : State) :
    (roundOp f i s).totalLength = s.totalLength := rfl
@[simp] theorem roundOp_pending (f : Word → Word → Word → Word) (i : RoundIndex) (s : State) :
    (roundOp f i s).pending = s.pending := rfl
@[simp] theorem roundOp_pendingLen (f : Word → Word → Word → Word) (i : RoundIndex) (s : State) :
    (roundOp f i s).pendingLen = s.pendingLen := rfl
@[simp] theorem roundOp_w (f : Word → Word → Word → Word) (i : RoundIndex) (s : State) :
    (roundOp f i s).w = roundQuad f (roundConstant i) (rotationAmount i) (s.pending.word (messageIndex i)) s.w := rfl
@[simp] theorem roundOp_seq (f : Word → Word → Word → Word) (i : RoundIndex) (s : State) :
    (roundOp f i s).seq = s.seq + 1#8 := rfl
@[simp] theorem roundOp_bitlen (f : Word → Word → Word → Word) (i : RoundIndex) (s : State) :
    (roundOp f i s).bitlen = s.bitlen := rfl
@[simp] theorem roundOp_blockReady (f : Word → Word → Word → Word) (i : RoundIndex) (s : State) :
    (roundOp f i s).blockReady = s.blockReady := rfl
@[simp] theorem roundOp_activity (f : Word → Word → Word → Word) (i : RoundIndex) (s : State) :
    (roundOp f i s).activity = s.activity := rfl
@[simp] theorem roundOp_cmdReady (f : Word → Word → Word → Word) (i : RoundIndex) (s : State) :
    (roundOp f i s).cmdReady = s.cmdReady := rfl
@[simp] theorem roundOp_rspValid (f : Word → Word → Word → Word) (i : RoundIndex) (s : State) :
    (roundOp f i s).rspValid = s.rspValid := rfl
@[simp] theorem roundOp_rspDigest (f : Word → Word → Word → Word) (i : RoundIndex) (s : State) :
    (roundOp f i s).rspDigest = s.rspDigest := rfl
@[simp] theorem roundOp_hostActs (f : Word → Word → Word → Word) (i : RoundIndex) (s : State) :
    (roundOp f i s).hostActs = s.hostActs := rfl
@[simp] theorem roundOp_responses (f : Word → Word → Word → Word) (i : RoundIndex) (s : State) :
    (roundOp f i s).responses = s.responses := rfl
@[simp] theorem roundOp_detail (f : Word → Word → Word → Word) (i : RoundIndex) (s : State) :
    (roundOp f i s).detail = s.detail := rfl
@[simp] theorem roundOp_draws (f : Word → Word → Word → Word) (i : RoundIndex) (s : State) :
    (roundOp f i s).draws = s.draws := rfl

/-! ### feedfwdOp (R188) -/

@[simp] theorem feedfwdOp_h (s : State) : (feedfwdOp s).h = addQuad s.h s.w := rfl
@[simp] theorem feedfwdOp_totalLength (s : State) : (feedfwdOp s).totalLength = s.totalLength := rfl
@[simp] theorem feedfwdOp_pending (s : State) : (feedfwdOp s).pending = s.pending := rfl
@[simp] theorem feedfwdOp_pendingLen (s : State) : (feedfwdOp s).pendingLen = s.pendingLen := rfl
@[simp] theorem feedfwdOp_w (s : State) : (feedfwdOp s).w = s.w := rfl
@[simp] theorem feedfwdOp_seq (s : State) : (feedfwdOp s).seq = 0x00#8 := rfl
@[simp] theorem feedfwdOp_bitlen (s : State) : (feedfwdOp s).bitlen = s.bitlen := rfl
@[simp] theorem feedfwdOp_blockReady (s : State) : (feedfwdOp s).blockReady = s.blockReady := rfl
@[simp] theorem feedfwdOp_activity (s : State) : (feedfwdOp s).activity = s.activity := rfl
@[simp] theorem feedfwdOp_cmdReady (s : State) : (feedfwdOp s).cmdReady = s.cmdReady := rfl
@[simp] theorem feedfwdOp_rspValid (s : State) : (feedfwdOp s).rspValid = s.rspValid := rfl
@[simp] theorem feedfwdOp_rspDigest (s : State) : (feedfwdOp s).rspDigest = s.rspDigest := rfl
@[simp] theorem feedfwdOp_hostActs (s : State) : (feedfwdOp s).hostActs = s.hostActs := rfl
@[simp] theorem feedfwdOp_responses (s : State) : (feedfwdOp s).responses = s.responses := rfl
@[simp] theorem feedfwdOp_detail (s : State) : (feedfwdOp s).detail = s.detail := rfl
@[simp] theorem feedfwdOp_draws (s : State) : (feedfwdOp s).draws = s.draws := rfl

/-! ### storeByte (R122) -/

@[simp] theorem storeByte_h (v : Byte) (s : State) : (storeByte v s).h = s.h := rfl
@[simp] theorem storeByte_totalLength (v : Byte) (s : State) : (storeByte v s).totalLength = s.totalLength := rfl
@[simp] theorem storeByte_pending (v : Byte) (s : State) :
    (storeByte v s).pending = s.pending.write s.pendingLen.toNat v := rfl
@[simp] theorem storeByte_pendingLen (v : Byte) (s : State) : (storeByte v s).pendingLen = s.pendingLen := rfl
@[simp] theorem storeByte_w (v : Byte) (s : State) : (storeByte v s).w = s.w := rfl
@[simp] theorem storeByte_seq (v : Byte) (s : State) : (storeByte v s).seq = s.seq := rfl
@[simp] theorem storeByte_bitlen (v : Byte) (s : State) : (storeByte v s).bitlen = s.bitlen := rfl
@[simp] theorem storeByte_blockReady (v : Byte) (s : State) : (storeByte v s).blockReady = s.blockReady := rfl
@[simp] theorem storeByte_activity (v : Byte) (s : State) : (storeByte v s).activity = s.activity := rfl
@[simp] theorem storeByte_cmdReady (v : Byte) (s : State) : (storeByte v s).cmdReady = s.cmdReady := rfl
@[simp] theorem storeByte_rspValid (v : Byte) (s : State) : (storeByte v s).rspValid = s.rspValid := rfl
@[simp] theorem storeByte_rspDigest (v : Byte) (s : State) : (storeByte v s).rspDigest = s.rspDigest := rfl
@[simp] theorem storeByte_hostActs (v : Byte) (s : State) : (storeByte v s).hostActs = s.hostActs := rfl
@[simp] theorem storeByte_responses (v : Byte) (s : State) : (storeByte v s).responses = s.responses := rfl
@[simp] theorem storeByte_detail (v : Byte) (s : State) : (storeByte v s).detail = s.detail := rfl
@[simp] theorem storeByte_draws (v : Byte) (s : State) : (storeByte v s).draws = s.draws := rfl

/-! ### putByteSerial (R25) -/

@[simp] theorem putByteSerial_h (v : Byte) (s : State) : (putByteSerial v s).h = s.h := rfl
@[simp] theorem putByteSerial_totalLength (v : Byte) (s : State) :
    (putByteSerial v s).totalLength = s.totalLength := rfl
@[simp] theorem putByteSerial_pending (v : Byte) (s : State) :
    (putByteSerial v s).pending = s.pending.write s.pendingLen.toNat v := rfl
@[simp] theorem putByteSerial_pendingLen (v : Byte) (s : State) :
    (putByteSerial v s).pendingLen = s.pendingLen + 1#6 := rfl
@[simp] theorem putByteSerial_w (v : Byte) (s : State) : (putByteSerial v s).w = s.w := rfl
@[simp] theorem putByteSerial_seq (v : Byte) (s : State) : (putByteSerial v s).seq = s.seq := rfl
@[simp] theorem putByteSerial_bitlen (v : Byte) (s : State) : (putByteSerial v s).bitlen = s.bitlen := rfl
@[simp] theorem putByteSerial_blockReady (v : Byte) (s : State) : (putByteSerial v s).blockReady = s.fillsBlock := rfl
@[simp] theorem putByteSerial_activity (v : Byte) (s : State) : (putByteSerial v s).activity = s.activity := rfl
@[simp] theorem putByteSerial_cmdReady (v : Byte) (s : State) : (putByteSerial v s).cmdReady = s.cmdReady := rfl
@[simp] theorem putByteSerial_rspValid (v : Byte) (s : State) : (putByteSerial v s).rspValid = s.rspValid := rfl
@[simp] theorem putByteSerial_rspDigest (v : Byte) (s : State) : (putByteSerial v s).rspDigest = s.rspDigest := rfl
@[simp] theorem putByteSerial_hostActs (v : Byte) (s : State) : (putByteSerial v s).hostActs = s.hostActs := rfl
@[simp] theorem putByteSerial_responses (v : Byte) (s : State) : (putByteSerial v s).responses = s.responses := rfl
@[simp] theorem putByteSerial_detail (v : Byte) (s : State) : (putByteSerial v s).detail = s.detail := rfl
@[simp] theorem putByteSerial_draws (v : Byte) (s : State) : (putByteSerial v s).draws = s.draws := rfl

/-! ### latchBitlen (R151) -/

@[simp] theorem latchBitlen_h (s : State) : (latchBitlen s).h = s.h := rfl
@[simp] theorem latchBitlen_totalLength (s : State) : (latchBitlen s).totalLength = s.totalLength := rfl
@[simp] theorem latchBitlen_pending (s : State) : (latchBitlen s).pending = s.pending := rfl
@[simp] theorem latchBitlen_pendingLen (s : State) : (latchBitlen s).pendingLen = s.pendingLen := rfl
@[simp] theorem latchBitlen_w (s : State) : (latchBitlen s).w = s.w := rfl
@[simp] theorem latchBitlen_seq (s : State) : (latchBitlen s).seq = s.seq := rfl
@[simp] theorem latchBitlen_bitlen (s : State) : (latchBitlen s).bitlen = mul8_64 s.totalLength := rfl
@[simp] theorem latchBitlen_blockReady (s : State) : (latchBitlen s).blockReady = s.blockReady := rfl
@[simp] theorem latchBitlen_activity (s : State) : (latchBitlen s).activity = s.activity := rfl
@[simp] theorem latchBitlen_cmdReady (s : State) : (latchBitlen s).cmdReady = s.cmdReady := rfl
@[simp] theorem latchBitlen_rspValid (s : State) : (latchBitlen s).rspValid = s.rspValid := rfl
@[simp] theorem latchBitlen_rspDigest (s : State) : (latchBitlen s).rspDigest = s.rspDigest := rfl
@[simp] theorem latchBitlen_hostActs (s : State) : (latchBitlen s).hostActs = s.hostActs := rfl
@[simp] theorem latchBitlen_responses (s : State) : (latchBitlen s).responses = s.responses := rfl
@[simp] theorem latchBitlen_detail (s : State) : (latchBitlen s).detail = s.detail := rfl
@[simp] theorem latchBitlen_draws (s : State) : (latchBitlen s).draws = s.draws := rfl

/-! ### beginCommand (R82) -/

@[simp] theorem beginCommand_h (a : Activity) (s : State) : (beginCommand a s).h = s.h := rfl
@[simp] theorem beginCommand_totalLength (a : Activity) (s : State) :
    (beginCommand a s).totalLength = s.totalLength := rfl
@[simp] theorem beginCommand_pending (a : Activity) (s : State) : (beginCommand a s).pending = s.pending := rfl
@[simp] theorem beginCommand_pendingLen (a : Activity) (s : State) :
    (beginCommand a s).pendingLen = s.pendingLen := rfl
@[simp] theorem beginCommand_w (a : Activity) (s : State) : (beginCommand a s).w = s.w := rfl
@[simp] theorem beginCommand_seq (a : Activity) (s : State) : (beginCommand a s).seq = s.seq := rfl
@[simp] theorem beginCommand_bitlen (a : Activity) (s : State) : (beginCommand a s).bitlen = s.bitlen := rfl
@[simp] theorem beginCommand_blockReady (a : Activity) (s : State) :
    (beginCommand a s).blockReady = s.blockReady := rfl
@[simp] theorem beginCommand_activity (a : Activity) (s : State) : (beginCommand a s).activity = a := rfl
@[simp] theorem beginCommand_cmdReady (a : Activity) (s : State) : (beginCommand a s).cmdReady = false := rfl
@[simp] theorem beginCommand_rspValid (a : Activity) (s : State) : (beginCommand a s).rspValid = s.rspValid := rfl
@[simp] theorem beginCommand_rspDigest (a : Activity) (s : State) : (beginCommand a s).rspDigest = s.rspDigest := rfl
@[simp] theorem beginCommand_hostActs (a : Activity) (s : State) : (beginCommand a s).hostActs = s.hostActs := rfl
@[simp] theorem beginCommand_responses (a : Activity) (s : State) : (beginCommand a s).responses = s.responses := rfl
@[simp] theorem beginCommand_detail (a : Activity) (s : State) : (beginCommand a s).detail = s.detail := rfl
@[simp] theorem beginCommand_draws (a : Activity) (s : State) : (beginCommand a s).draws = s.draws := rfl

/-! ### tick (R82, R263): only the host's acts move -/

@[simp] theorem tick_h (s : State) : (tick s).h = s.h := by unfold tick; split <;> rfl
@[simp] theorem tick_totalLength (s : State) : (tick s).totalLength = s.totalLength := by unfold tick; split <;> rfl
@[simp] theorem tick_pending (s : State) : (tick s).pending = s.pending := by unfold tick; split <;> rfl
@[simp] theorem tick_pendingLen (s : State) : (tick s).pendingLen = s.pendingLen := by unfold tick; split <;> rfl
@[simp] theorem tick_w (s : State) : (tick s).w = s.w := by unfold tick; split <;> rfl
@[simp] theorem tick_seq (s : State) : (tick s).seq = s.seq := by unfold tick; split <;> rfl
@[simp] theorem tick_bitlen (s : State) : (tick s).bitlen = s.bitlen := by unfold tick; split <;> rfl
@[simp] theorem tick_blockReady (s : State) : (tick s).blockReady = s.blockReady := by unfold tick; split <;> rfl
@[simp] theorem tick_activity (s : State) : (tick s).activity = s.activity := by unfold tick; split <;> rfl
@[simp] theorem tick_cmdReady (s : State) : (tick s).cmdReady = s.cmdReady := by unfold tick; split <;> rfl
@[simp] theorem tick_rspValid (s : State) : (tick s).rspValid = s.rspValid := by unfold tick; split <;> rfl
@[simp] theorem tick_rspDigest (s : State) : (tick s).rspDigest = s.rspDigest := by unfold tick; split <;> rfl
@[simp] theorem tick_responses (s : State) : (tick s).responses = s.responses := by unfold tick; split <;> rfl
@[simp] theorem tick_detail (s : State) : (tick s).detail = s.detail := by unfold tick; split <;> rfl
@[simp] theorem tick_draws (s : State) : (tick s).draws = s.draws := by unfold tick; split <;> rfl

theorem tick_word (s : State) (w : CmdWord) (rest : List HostAct) (h : s.hostActs = .word w :: rest) : tick s = s := by
  simp [tick, h]

theorem tick_quiet (s : State) (h : s.hostActs = []) : tick s = s := by
  simp [tick, h]

theorem tick_pause (s : State) (rest : List HostAct) (h : s.hostActs = .pause :: rest) :
    tick s = { s with hostActs := rest } := by
  simp [tick, h]

@[simp] theorem tick_midCompression (s : State) : (tick s).midCompression = s.midCompression := by
  simp [State.midCompression]

end Sys2Proof.Machine
end

