-- ==== Sys2Proof/Laws/Sequencer.lean ====
section
/-!
SUPPORT. What a compression run by the sequencer can touch: the accumulators, the working registers, `seq` and the
trigger, and nothing else (R180: "Writes: `H[0..3]`, and the transient `w[0..3]`, `seq`").
-/

namespace Sys2Proof.Machine

theorem runRounds_succ (n : Nat) (s : State) :
    runRounds (n + 1) s = runRounds n (roundOp (mixOf (roundGroup s.rnd)) s.rnd s) := rfl

/-- Rounds write the working registers and `seq` only. -/
theorem runRounds_frame (n : Nat) (s : State) :
    runRounds n s = { s with w := (runRounds n s).w, seq := s.seq + BitVec.ofNat 8 n } := by
  induction n generalizing s with
  | zero => simp [runRounds]
  | succ n ih =>
    rw [runRounds_succ, ih]
    have hseq : s.seq + 1#8 + BitVec.ofNat 8 n = s.seq + BitVec.ofNat 8 (n + 1) := by
      rw [BitVec.add_assoc, BitVec.ofNat_add, BitVec.add_comm (BitVec.ofNat 8 n)]
    simp only [roundOp, hseq]

/-- A compression leaves everything but `h`, `w`, `seq` and the trigger alone, and ends with IDLE selected. -/
theorem compress_frame (s : State) :
    compress s = { s with h := (compress s).h, w := (compress s).w, seq := 0x00#8, blockReady := false } := by
  unfold compress
  rw [runRounds_frame]
  simp [feedfwdOp, seedOp, idleOp]

@[simp] theorem compress_totalLength (s : State) : (compress s).totalLength = s.totalLength := by rw [compress_frame]
@[simp] theorem compress_pending (s : State) : (compress s).pending = s.pending := by rw [compress_frame]
@[simp] theorem compress_pendingLen (s : State) : (compress s).pendingLen = s.pendingLen := by rw [compress_frame]
@[simp] theorem compress_seq (s : State) : (compress s).seq = 0x00#8 := by rw [compress_frame]
@[simp] theorem compress_bitlen (s : State) : (compress s).bitlen = s.bitlen := by rw [compress_frame]
@[simp] theorem compress_blockReady (s : State) : (compress s).blockReady = false := by rw [compress_frame]
@[simp] theorem compress_activity (s : State) : (compress s).activity = s.activity := by rw [compress_frame]
@[simp] theorem compress_cmdReady (s : State) : (compress s).cmdReady = s.cmdReady := by rw [compress_frame]
@[simp] theorem compress_rspValid (s : State) : (compress s).rspValid = s.rspValid := by rw [compress_frame]
@[simp] theorem compress_rspDigest (s : State) : (compress s).rspDigest = s.rspDigest := by rw [compress_frame]
@[simp] theorem compress_hostActs (s : State) : (compress s).hostActs = s.hostActs := by rw [compress_frame]
@[simp] theorem compress_responses (s : State) : (compress s).responses = s.responses := by rw [compress_frame]
@[simp] theorem compress_detail (s : State) : (compress s).detail = s.detail := by rw [compress_frame]
@[simp] theorem compress_draws (s : State) : (compress s).draws = s.draws := by rw [compress_frame]

/-- The new working registers depend on the old ones, the buffer and `seq` only. -/
theorem runRounds_w_congr (n : Nat) (s t : State) (hw : s.w = t.w) (hm : s.pending = t.pending) (hq : s.seq = t.seq) :
    (runRounds n s).w = (runRounds n t).w := by
  induction n generalizing s t with
  | zero => exact hw
  | succ n ih =>
    rw [runRounds_succ, runRounds_succ]
    apply ih <;> simp [roundOp, State.rnd, hw, hm, hq]

/-- The new accumulators depend on the old ones and the buffer only (R180: a total, deterministic function). -/
theorem compress_h_congr (s t : State) (hh : s.h = t.h) (hm : s.pending = t.pending) :
    (compress s).h = (compress t).h := by
  have hw := runRounds_w_congr 64 (seedOp (idleOp { s with blockReady := true }))
    (seedOp (idleOp { t with blockReady := true })) hh hm rfl
  have hs := congrArg State.h (runRounds_frame 64 (seedOp (idleOp { s with blockReady := true })))
  have ht := congrArg State.h (runRounds_frame 64 (seedOp (idleOp { t with blockReady := true })))
  simp only [seedOp_h, idleOp_h] at hs ht
  simp only [compress, feedfwdOp_h]
  rw [hs, ht, hw, hh]

end Sys2Proof.Machine
end

