-- ==== Sys2Proof/Laws/Buffer.lean ====
section
/-!
SUPPORT. What PutByte can do (R122, R123): its two cases, and what neither touches.
-/

namespace Sys2Proof.Machine

/-- R122 when the byte does not fill the buffer. -/
theorem putByte_below (v : Byte) (s : State) (h : s.fillsBlock = false) :
    putByte v s = { s with pending := s.pending.write s.pendingLen.toNat v, pendingLen := s.pendingLen + 1#6 } := by
  simp [putByte, h, storeByte]

/-- R122, R123 when the byte fills the buffer. -/
theorem putByte_full (v : Byte) (s : State) (h : s.fillsBlock = true) :
    putByte v s = { compress (storeByte v s) with pendingLen := 0#6 } := by
  simp [putByte, h, blockComplete]

/-- Either way the fill index advances by one, mod 64 (R25). -/
theorem putByte_pendingLen (v : Byte) (s : State) : (putByte v s).pendingLen = s.pendingLen + 1#6 := by
  cases h : s.fillsBlock with
  | false => rw [putByte_below v s h]
  | true =>
    rw [putByte_full v s h]
    have h63 : s.pendingLen = 63#6 := by simpa [State.fillsBlock] using h
    simp [h63]

/-- Either way the byte is written at the fill index, and nowhere else (R52). -/
theorem putByte_pending (v : Byte) (s : State) :
    (putByte v s).pending = s.pending.write s.pendingLen.toNat v := by
  cases h : s.fillsBlock with
  | false => rw [putByte_below v s h]
  | true => rw [putByte_full v s h]; simp

theorem putByte_keeps_wf (v : Byte) (s : State) (h : s.pending.wf = true) : (putByte v s).pending.wf = true := by
  rw [putByte_pending]
  exact Memory.write_at_fill_wf s.pending s.pendingLen v h

/-- R122: "It does not touch `total_length`"; nor the ports, the host, or the control of FINALIZE. -/
theorem putByte_frame (v : Byte) (s : State) :
    (putByte v s).totalLength = s.totalLength ∧ (putByte v s).bitlen = s.bitlen ∧
      (putByte v s).activity = s.activity ∧ (putByte v s).cmdReady = s.cmdReady ∧
      (putByte v s).rspValid = s.rspValid ∧ (putByte v s).rspDigest = s.rspDigest ∧
      (putByte v s).hostActs = s.hostActs ∧ (putByte v s).responses = s.responses ∧
      (putByte v s).detail = s.detail ∧ (putByte v s).draws = s.draws := by
  cases h : s.fillsBlock with
  | false => rw [putByte_below v s h]; simp
  | true => rw [putByte_full v s h]; simp

@[simp] theorem putBytes_nil (s : State) : putBytes [] s = s := rfl

@[simp] theorem putBytes_cons (b : Byte) (bs : List Byte) (s : State) :
    putBytes (b :: bs) s = putBytes bs (putByte b s) := rfl

theorem putBytes_append (xs ys : List Byte) (s : State) : putBytes (xs ++ ys) s = putBytes ys (putBytes xs s) := by
  simp [putBytes, List.foldl_append]

theorem putBytes_keeps_wf (bs : List Byte) (s : State) (h : s.pending.wf = true) :
    (putBytes bs s).pending.wf = true := by
  induction bs generalizing s with
  | nil => exact h
  | cons b rest ih => exact ih _ (putByte_keeps_wf b s h)

/-- What absorbing bytes through PutByte leaves alone (R122, R154). -/
theorem putBytes_frame (bs : List Byte) (s : State) :
    (putBytes bs s).totalLength = s.totalLength ∧ (putBytes bs s).bitlen = s.bitlen ∧
      (putBytes bs s).activity = s.activity ∧ (putBytes bs s).cmdReady = s.cmdReady ∧
      (putBytes bs s).rspValid = s.rspValid ∧ (putBytes bs s).rspDigest = s.rspDigest ∧
      (putBytes bs s).hostActs = s.hostActs ∧ (putBytes bs s).responses = s.responses ∧
      (putBytes bs s).detail = s.detail ∧ (putBytes bs s).draws = s.draws := by
  induction bs generalizing s with
  | nil => simp
  | cons b rest ih =>
    rw [putBytes_cons]
    obtain ⟨h1, h2, h3, h4, h5, h6, h7, h8, h9, h10⟩ := ih (putByte b s)
    obtain ⟨g1, g2, g3, g4, g5, g6, g7, g8, g9, g10⟩ := putByte_frame b s
    exact ⟨h1.trans g1, h2.trans g2, h3.trans g3, h4.trans g4, h5.trans g5, h6.trans g6, h7.trans g7, h8.trans g8,
      h9.trans g9, h10.trans g10⟩

end Sys2Proof.Machine
end

