-- ==== Sys2Proof/Laws/PerInstr.lean ====
section
/-!
SUPPORT. Statements about every instruction as syntax, one lemma for each constructor.
-/

namespace Sys2Proof.Laws.RowSelects

/-- R83, R90: the word of a well-formed instruction is selected by the row of its own mnemonic and by no other row. -/
def Statement (i : Instr) : Prop := i.wellFormed = true → selectedMnemonics (encode i) = [mnemonic i]

theorem absorb (v : Byte) : Statement (.absorb v) := by
  revert v; unfold Statement; decide +kernel
theorem finalize : Statement .finalize := by unfold Statement; decide +kernel
theorem reset : Statement .reset := by unfold Statement; decide +kernel
theorem idle : Statement .idle := by unfold Statement; decide +kernel
theorem seed : Statement .seed := by unfold Statement; decide +kernel
theorem roundF (i : RoundIndex) : Statement (.roundF i) := by
  revert i; unfold Statement; decide +kernel
theorem roundG (i : RoundIndex) : Statement (.roundG i) := by
  revert i; unfold Statement; decide +kernel
theorem roundH (i : RoundIndex) : Statement (.roundH i) := by
  revert i; unfold Statement; decide +kernel
theorem roundI (i : RoundIndex) : Statement (.roundI i) := by
  revert i; unfold Statement; decide +kernel
theorem feedfwd : Statement .feedfwd := by unfold Statement; decide +kernel

end Sys2Proof.Laws.RowSelects
end

