-- ==== Sys2Proof/Laws/Step.lean ====
section
/-!
SUPPORT. What a step can do, said once: the four cases of `step`, the cases of an engine at rest, and that a step with a
command in progress does not depend on what the host does.
-/

namespace Sys2Proof.Machine

/-- The cases of a step: hardware reset, a micro-operation, the control of a command in progress, an engine at rest. -/
theorem step_cases (s : State) :
    (∃ rest, s.hostActs = .rst :: rest ∧ step s = .next (hardReset { s with hostActs := rest })) ∨
    (s.rstAsserted = false ∧ s.midCompression = true ∧ step s = runSequencer (tick s)) ∨
    (s.rstAsserted = false ∧ s.midCompression = false ∧ s.cmdReady = false ∧ step s = .next (commandControl (tick s))) ∨
    (s.rstAsserted = false ∧ s.midCompression = false ∧ s.cmdReady = true ∧ step s = stepAtRest s) := by
  unfold step stepOnce
  split
  · rename_i rest heq
    exact .inl ⟨rest, heq, rfl⟩
  · rename_i hne
    have hr : s.rstAsserted = false := by
      unfold State.rstAsserted
      split
      · rename_i rest heq
        exact absurd heq (hne rest)
      · rfl
    unfold stepRunning
    cases hm : s.midCompression with
    | true => exact .inr (.inl ⟨hr, rfl, by simp⟩)
    | false =>
      cases hc : s.cmdReady with
      | true => exact .inr (.inr (.inr ⟨hr, rfl, rfl, by simp⟩))
      | false => exact .inr (.inr (.inl ⟨hr, rfl, rfl, by simp⟩))

/-- The cases of an engine at rest: a presented word, or nothing to do. -/
theorem stepAtRest_cases (s : State) :
    (∃ w rest, s.hostActs = .word w :: rest ∧ stepAtRest s = acceptWord w { s with hostActs := rest }) ∨
    (s.cmdValid = false ∧ stepAtRest s = .next (idleOp (tick s))) := by
  unfold stepAtRest
  split
  · rename_i w rest heq
    exact .inl ⟨w, rest, heq, rfl⟩
  · rename_i hne
    refine .inr ⟨?_, rfl⟩
    unfold State.cmdValid
    split
    · rename_i w rest heq
      exact absurd heq (hne w rest)
    · rfl

/-- A sequencer word that decodes runs its micro-operation. -/
theorem runSequencer_ok (s : State) (i : Instr) (h : decode (.seq s.seq) = .ok i) : runSequencer s = exec i s := by
  simp [runSequencer, h]

/-- The sequencer's decoder answers no command. -/
theorem decodeSeq_not_command (w : SeqWord) :
    (∀ v, decodeSeq w ≠ .ok (.absorb v)) ∧ decodeSeq w ≠ .ok .finalize ∧ decodeSeq w ≠ .ok .reset := by
  unfold decodeSeq
  refine ⟨fun v => ?_, ?_, ?_⟩ <;> · split_ifs <;> simp

/-- A micro-operation neither reads nor writes the host's acts. -/
theorem runSequencer_hostActs (s t : State) (acts : List HostAct) (h : runSequencer s = .next t) :
    runSequencer { s with hostActs := acts } = .next { t with hostActs := acts } ∧ t.hostActs = s.hostActs := by
  unfold runSequencer at h ⊢
  split at h
  · rename_i i hi
    rw [show decode (.seq ({ s with hostActs := acts } : State).seq) = .ok i from hi]
    obtain ⟨ha, hf, hr⟩ := decodeSeq_not_command s.seq
    cases i with
    | absorb v => exact absurd hi (ha v)
    | finalize => exact absurd hi hf
    | reset => exact absurd hi hr
    | idle => cases h; exact ⟨rfl, rfl⟩
    | seed => cases h; exact ⟨rfl, rfl⟩
    | roundF r => cases h; exact ⟨rfl, rfl⟩
    | roundG r => cases h; exact ⟨rfl, rfl⟩
    | roundH r => cases h; exact ⟨rfl, rfl⟩
    | roundI r => cases h; exact ⟨rfl, rfl⟩
    | feedfwd => cases h; exact ⟨rfl, rfl⟩
  · cases h

/-- The control of a command in progress neither reads nor writes the host's acts. -/
theorem commandControl_hostActs (s : State) (acts : List HostAct) :
    commandControl { s with hostActs := acts } = { commandControl s with hostActs := acts } ∧
      (commandControl s).hostActs = s.hostActs := by
  obtain ⟨h, n, m, len, w, q, b, ready, act⟩ := s
  cases act with
  | padZeros =>
    by_cases hz : (len == 56#6) = true <;>
      simp only [commandControl, serialZero, State.zerosDone, hz] <;> exact ⟨rfl, rfl⟩
  | rest => exact ⟨rfl, rfl⟩
  | absorbing => exact ⟨rfl, rfl⟩
  | padMark => exact ⟨rfl, rfl⟩
  | padLength k => exact ⟨rfl, rfl⟩
  | readOut => exact ⟨rfl, rfl⟩
  | responding => exact ⟨rfl, rfl⟩

/-- What the host still does after a step in which it presents nothing new. -/
theorem tick_eq (s : State) : tick s = { s with hostActs := (tick s).hostActs } := by
  unfold tick
  split <;> rfl

/-- R82: a step with a command in progress depends on the host's acts for `rst` only, and the acts of the next state are those
after the tick. -/
theorem step_busy_hostActs {s t : State} (acts : List HostAct) (hbusy : s.cmdReady = false) (hquiet : s.hostActs = [])
    (hrst : ∀ rest, acts ≠ .rst :: rest) (h : step s = .next t) :
    step { s with hostActs := acts } = .next { t with hostActs := (tick { s with hostActs := acts }).hostActs } ∧
      t.hostActs = [] := by
  have busy : ∀ u : State, u.cmdReady = false → (∀ rest, u.hostActs ≠ .rst :: rest) →
      step u = if u.midCompression then runSequencer (tick u) else .next (commandControl (tick u)) := by
    intro u hu hne
    obtain ⟨r, h, _⟩ | ⟨_, h, h'⟩ | ⟨_, h, _, h'⟩ | ⟨_, _, h, _⟩ := step_cases u
    · exact absurd h (hne r)
    · simp [h, h']
    · simp [h, h']
    · simp [hu] at h
  rw [busy s hbusy (by simp [hquiet]), show tick s = s by simp [tick, hquiet]] at h
  rw [busy { s with hostActs := acts } hbusy hrst, tick_eq { s with hostActs := acts }]
  change (if s.midCompression then _ else _) = _ ∧ _
  split at h
  · rw [if_pos ‹_›]
    exact ⟨(runSequencer_hostActs s t _ h).1, (runSequencer_hostActs s t [] h).2.trans hquiet⟩
  · rw [if_neg ‹_›]
    cases h
    exact ⟨congrArg _ (commandControl_hostActs s _).1, (commandControl_hostActs s []).2.trans hquiet⟩

end Sys2Proof.Machine
end

