-- ==== Sys2Proof/Tests/Slice0.lean ====
section
/-!
SUPPORT. The model's own tests, and for every statement with hypotheses a state and operands that meet them.
Every expected value is the spec's: the source is named at each test.
-/

namespace Sys2Proof.Tests

open Sys2Proof Sys2Proof.Machine

/-! ### WellFormed: for each check, a term it refuses and one it accepts (R90, R91) -/

theorem test_roundF_of_another_group_refused : (Instr.roundF 16#6).wellFormed = false := by decide
theorem test_roundG_of_another_group_refused : (Instr.roundG 15#6).wellFormed = false := by decide
theorem test_roundH_of_another_group_refused : (Instr.roundH 48#6).wellFormed = false := by decide
theorem test_roundI_of_another_group_refused : (Instr.roundI 47#6).wellFormed = false := by decide
theorem test_rounds_of_their_group_accepted :
    (Instr.roundF 15#6).wellFormed && (Instr.roundG 16#6).wellFormed && (Instr.roundH 47#6).wellFormed &&
      (Instr.roundI 48#6).wellFormed = true := by decide

/-! ### Decode: words written out bit by bit from the encodings of R83 and R90 (V19) -/

theorem test_decode_absorb : decode (.cmd 0b0101100001#10) = .ok (.absorb 0x61#8) := by decide
theorem test_decode_finalize : decode (.cmd 0b1000000000#10) = .ok .finalize := by decide
theorem test_decode_reset : decode (.cmd 0b1100000000#10) = .ok .reset := by decide
theorem test_decode_idle : decode (.seq 0b00000000#8) = .ok .idle := by decide
theorem test_decode_seed : decode (.seq 0b01000000#8) = .ok .seed := by decide
theorem test_decode_roundF : decode (.seq 0b10001111#8) = .ok (.roundF 15#6) := by decide
theorem test_decode_roundG : decode (.seq 0b10010000#8) = .ok (.roundG 16#6) := by decide
theorem test_decode_roundH : decode (.seq 0b10101111#8) = .ok (.roundH 47#6) := by decide
theorem test_decode_roundI : decode (.seq 0b10110000#8) = .ok (.roundI 48#6) := by decide
theorem test_decode_feedfwd : decode (.seq 0b11000000#8) = .ok .feedfwd := by decide

/-- V19: the reserved command words it lists. -/
theorem test_reserved_command_words :
    [0x000#10, 0x061#10, 0x0ff#10, 0x201#10, 0x2ff#10, 0x301#10, 0x3ff#10].all
      (fun w => decide (decode (.cmd w) = .error (.reservedCommand w))) = true := by decide

/-- V19: the unreachable sequencer words it lists. -/
theorem test_reserved_sequencer_words :
    [0x01#8, 0x41#8, 0x7f#8, 0xc1#8, 0xff#8].all
      (fun w => decide (decode (.seq w) = .error (.reservedSequencer w))) = true := by decide

/-- spec/opcode_table.json: rows of both widths, and a command row with a bit above the ten. -/
theorem test_table_words :
    decodeTableWord 16 0x1ff = some (.absorb 0xff#8) ∧ decodeTableWord 8 0xbf = some (.roundI 63#6) ∧
      decodeTableWord 16 0x561 = none ∧ decodeTableWord 16 0x061 = none := by decide

/-- P6: `ONESHOT "abc"` is the words 300 161 162 163 200. -/
theorem test_oneshot_words :
    scriptWords [.oneshot (.text "abc")] = [0x300#10, 0x161#10, 0x162#10, 0x163#10, 0x200#10] := by decide +kernel

/-! ### The round table, transcribed a second time from R96 -/

/-- R96, i = 0..15: i, seq, S[i], K[i], g(i). -/
def roundTable0 : List (Nat × SeqWord × Nat × Word × Nat) :=
  [(0, 0x80#8, 7, 0xd76aa478#32, 0), (1, 0x81#8, 12, 0xe8c7b756#32, 1),
    (2, 0x82#8, 17, 0x242070db#32, 2), (3, 0x83#8, 22, 0xc1bdceee#32, 3)] ++
  [(4, 0x84#8, 7, 0xf57c0faf#32, 4), (5, 0x85#8, 12, 0x4787c62a#32, 5),
    (6, 0x86#8, 17, 0xa8304613#32, 6), (7, 0x87#8, 22, 0xfd469501#32, 7)] ++
  [(8, 0x88#8, 7, 0x698098d8#32, 8), (9, 0x89#8, 12, 0x8b44f7af#32, 9),
    (10, 0x8A#8, 17, 0xffff5bb1#32, 10), (11, 0x8B#8, 22, 0x895cd7be#32, 11)] ++
  [(12, 0x8C#8, 7, 0x6b901122#32, 12), (13, 0x8D#8, 12, 0xfd987193#32, 13),
    (14, 0x8E#8, 17, 0xa679438e#32, 14), (15, 0x8F#8, 22, 0x49b40821#32, 15)]

/-- R96, i = 16..31: i, seq, S[i], K[i], g(i). -/
def roundTable1 : List (Nat × SeqWord × Nat × Word × Nat) :=
  [(16, 0x90#8, 5, 0xf61e2562#32, 1), (17, 0x91#8, 9, 0xc040b340#32, 6),
    (18, 0x92#8, 14, 0x265e5a51#32, 11), (19, 0x93#8, 20, 0xe9b6c7aa#32, 0)] ++
  [(20, 0x94#8, 5, 0xd62f105d#32, 5), (21, 0x95#8, 9, 0x02441453#32, 10),
    (22, 0x96#8, 14, 0xd8a1e681#32, 15), (23, 0x97#8, 20, 0xe7d3fbc8#32, 4)] ++
  [(24, 0x98#8, 5, 0x21e1cde6#32, 9), (25, 0x99#8, 9, 0xc33707d6#32, 14),
    (26, 0x9A#8, 14, 0xf4d50d87#32, 3), (27, 0x9B#8, 20, 0x455a14ed#32, 8)] ++
  [(28, 0x9C#8, 5, 0xa9e3e905#32, 13), (29, 0x9D#8, 9, 0xfcefa3f8#32, 2),
    (30, 0x9E#8, 14, 0x676f02d9#32, 7), (31, 0x9F#8, 20, 0x8d2a4c8a#32, 12)]

/-- R96, i = 32..47: i, seq, S[i], K[i], g(i). -/
def roundTable2 : List (Nat × SeqWord × Nat × Word × Nat) :=
  [(32, 0xA0#8, 4, 0xfffa3942#32, 5), (33, 0xA1#8, 11, 0x8771f681#32, 8),
    (34, 0xA2#8, 16, 0x6d9d6122#32, 11), (35, 0xA3#8, 23, 0xfde5380c#32, 14)] ++
  [(36, 0xA4#8, 4, 0xa4beea44#32, 1), (37, 0xA5#8, 11, 0x4bdecfa9#32, 4),
    (38, 0xA6#8, 16, 0xf6bb4b60#32, 7), (39, 0xA7#8, 23, 0xbebfbc70#32, 10)] ++
  [(40, 0xA8#8, 4, 0x289b7ec6#32, 13), (41, 0xA9#8, 11, 0xeaa127fa#32, 0),
    (42, 0xAA#8, 16, 0xd4ef3085#32, 3), (43, 0xAB#8, 23, 0x04881d05#32, 6)] ++
  [(44, 0xAC#8, 4, 0xd9d4d039#32, 9), (45, 0xAD#8, 11, 0xe6db99e5#32, 12),
    (46, 0xAE#8, 16, 0x1fa27cf8#32, 15), (47, 0xAF#8, 23, 0xc4ac5665#32, 2)]

/-- R96, i = 48..63: i, seq, S[i], K[i], g(i). -/
def roundTable3 : List (Nat × SeqWord × Nat × Word × Nat) :=
  [(48, 0xB0#8, 6, 0xf4292244#32, 0), (49, 0xB1#8, 10, 0x432aff97#32, 7),
    (50, 0xB2#8, 15, 0xab9423a7#32, 14), (51, 0xB3#8, 21, 0xfc93a039#32, 5)] ++
  [(52, 0xB4#8, 6, 0x655b59c3#32, 12), (53, 0xB5#8, 10, 0x8f0ccc92#32, 3),
    (54, 0xB6#8, 15, 0xffeff47d#32, 10), (55, 0xB7#8, 21, 0x85845dd1#32, 1)] ++
  [(56, 0xB8#8, 6, 0x6fa87e4f#32, 8), (57, 0xB9#8, 10, 0xfe2ce6e0#32, 15),
    (58, 0xBA#8, 15, 0xa3014314#32, 6), (59, 0xBB#8, 21, 0x4e0811a1#32, 13)] ++
  [(60, 0xBC#8, 6, 0xf7537e82#32, 4), (61, 0xBD#8, 10, 0xbd3af235#32, 11),
    (62, 0xBE#8, 15, 0x2ad7d2bb#32, 2), (63, 0xBF#8, 21, 0xeb86d391#32, 9)]

/-- R96: the complete round table against the decoder and the three tables. -/
theorem test_round_table :
    (roundTable0 ++ roundTable1 ++ roundTable2 ++ roundTable3).all (fun (i, q, s, k, g) =>
      decide (seqRnd q = BitVec.ofNat 6 i) && decide (rotationAmount (seqRnd q) = s) &&
        decide (roundConstant (seqRnd q) = k) && decide (messageIndex (seqRnd q) = g)) = true := by decide +kernel

/-! ### Arithmetic (V23, V24) -/

theorem test_rotl32 : rotl32 0xd76aa4f7#32 7 = 0xb5527beb#32 ∧ rotl32 0x12345678#32 16 = 0x56781234#32 := by decide
theorem test_add32_wraps : add32 0xefcdab89#32 0x14e45506#32 = 0x04b2008f#32 := by decide
theorem test_le32 : le32 0x61#8 0x62#8 0x63#8 0x80#8 = 0x80636261#32 := by decide
theorem test_bytesLe : bytesLe 0x280#64 8 = [0x80#8, 0x02#8, 0#8, 0#8, 0#8, 0#8, 0#8, 0#8] := by decide
theorem test_mul8_64 : mul8_64 0x3000000000000001#64 = 0x8000000000000008#64 := by decide
theorem test_mixing_functions :
    (mixF 0x0f0f0f0f#32 0x33333333#32 0x55555555#32, mixG 0x0f0f0f0f#32 0x33333333#32 0x55555555#32,
      mixH 0x0f0f0f0f#32 0x33333333#32 0x55555555#32, mixI 0x0f0f0f0f#32 0x33333333#32 0x55555555#32) =
      (0x53535353#32, 0x27272727#32, 0x69696969#32, 0x9c9c9c9c#32) := by decide

/-- V27: HEX of the digest of the empty message. -/
theorem test_hex :
    hexString [0x0c#8, 0xc1#8, 0x75#8, 0xb9#8, 0xc0#8, 0xf1#8, 0xb6#8, 0xa8#8, 0x31#8, 0xc3#8, 0x99#8, 0xe2#8, 0x69#8,
      0x77#8, 0x26#8, 0x61#8] = "0cc175b9c0f1b6a831c399e269772661" := by decide +kernel

/-- V29: a digest bus, and its bytes as HEX reads them (V1). -/
theorem test_bus_bytes :
    hexChars (busBytes 0x7e42f8ec980980e904b2008fd98c1dd4#128) = "d41d8cd98f00b204e9800998ecf8427e".toList := by
  decide +kernel

/-! ### Instructions, one step each -/

/-- A state of the compression of the block [0x80] ++ rep(0, 63) (V20): the given sequencer word and working registers. -/
def midState (seq : SeqWord) (a b c d : Word) : State :=
  { State.reset with pending := [(0, 0x80#8)], seq := seq, w := ⟨a, b, c, d⟩, cmdReady := false, activity := .absorbing }

/-- A field of the next state, if there is one. -/
def after {α : Type} (o : Host.Outcome State Fault Refusal) (f : State → α) : Option α :=
  match o with
  | .next t => some (f t)
  | .fault _ => none
  | .refused _ => none

/-- R184's example, round 0. -/
theorem test_roundF :
    after (exec (.roundF 0#6) (midState 0x80#8 0x67452301#32 0xefcdab89#32 0x98badcfe#32 0x10325476#32))
      (fun t => (t.w, t.seq)) =
      some (⟨0x10325476#32, 0xa5202774#32, 0xefcdab89#32, 0x98badcfe#32⟩, 0x81#8) := by decide +kernel

/-- R185's example, round 16. -/
theorem test_roundG :
    after (exec (.roundG 16#6) (midState 0x90#8 0xf56c7cf1#32 0xd6819c6a#32 0x5aa53f75#32 0x374943a7#32))
      (fun t => (t.w, t.seq)) =
      some (⟨0x374943a7#32, 0x1c7d7513#32, 0xd6819c6a#32, 0x5aa53f75#32⟩, 0x91#8) := by decide +kernel

/-- R186's example, round 32. -/
theorem test_roundH :
    after (exec (.roundH 32#6) (midState 0xa0#8 0x13707036#32 0xa2205f1f#32 0x1c31c384#32 0xae7813db#32))
      (fun t => (t.w, t.seq)) =
      some (⟨0xae7813db#32, 0xdf63eaa1#32, 0xa2205f1f#32, 0x1c31c384#32⟩, 0xa1#8) := by decide +kernel

/-- R187's example, round 48, which reads M[0]. -/
theorem test_roundI :
    after (exec (.roundI 48#6) (midState 0xb0#8 0x3f55edfd#32 0xca7d2dbd#32 0x68d84ea2#32 0x22a31f54#32))
      (fun t => (t.w, t.seq)) =
      some (⟨0x22a31f54#32, 0x93aa2577#32, 0xca7d2dbd#32, 0x68d84ea2#32⟩, 0xb1#8) := by decide +kernel

/-- V20: the last round, whose successor is FEEDFWD. -/
theorem test_last_round :
    after (exec (.roundI 63#6) (midState 0xbf#8 0x30130182#32 0xff4ea3eb#32 0x6e10a476#32 0x7246fad3#32))
      (fun t => (t.w, t.seq)) =
      some (⟨0x7246fad3#32, 0x14e45506#32, 0xff4ea3eb#32, 0x6e10a476#32⟩, 0xc0#8) := by decide +kernel

/-- R182's example. -/
theorem test_seed :
    after (exec .seed (midState 0x40#8 0#32 0#32 0#32 0#32)) (fun t => (t.w, t.seq)) =
      some (⟨0x67452301#32, 0xefcdab89#32, 0x98badcfe#32, 0x10325476#32⟩, 0x80#8) := by decide +kernel

/-- R188's example; B and C wrap. -/
theorem test_feedfwd :
    after (exec .feedfwd (midState 0xc0#8 0x7246fad3#32 0x14e45506#32 0xff4ea3eb#32 0x6e10a476#32))
      (fun t => (t.h, t.seq)) =
      some (⟨0xd98c1dd4#32, 0x04b2008f#32, 0x980980e9#32, 0x7e42f8ec#32⟩, 0x00#8) := by decide +kernel

/-- R90, row IDLE: 0x40 when a block completes. -/
theorem test_idle :
    after (exec .idle { State.reset with blockReady := true }) (fun t => (t.seq, t.blockReady)) =
      some (0x40#8, false) := by decide

/-- R180's example: the one block of the empty message. -/
theorem test_compress :
    (compress { State.reset with pending := [(0, 0x80#8)] }).h =
      ⟨0xd98c1dd4#32, 0x04b2008f#32, 0x980980e9#32, 0x7e42f8ec#32⟩ := by decide +kernel

/-- R180's example again, by the function. -/
theorem test_compressBlock :
    compressBlock (0x80#8 :: List.replicate 63 0x00#8) initQuad =
      ⟨0xd98c1dd4#32, 0x04b2008f#32, 0x980980e9#32, 0x7e42f8ec#32⟩ := by decide +kernel

/-- `n` bytes 0x61 in the buffer of an engine at rest, counted. -/
def holding (n : Nat) : State :=
  { State.reset with
    pending := (List.range n).map (fun k => (k, 0x61#8)), pendingLen := BitVec.ofNat 6 n, totalLength := BitVec.ofNat 64 n }

/-- R121's example. -/
theorem test_absorb :
    after (exec (.absorb 0x61#8) State.reset) (fun t => (t.pending, t.pendingLen, t.totalLength, t.h)) =
      some ([(0, 0x61#8)], 1#6, 1#64, initQuad) := by decide +kernel

/-- V26: the 64th byte 0x61 completes the block. -/
theorem test_absorb_completes_block :
    after (exec (.absorb 0x61#8) (holding 63)) (fun t => (t.h, t.pendingLen, t.totalLength)) =
      some (⟨0x89d4ff56#32, 0x125cd962#32, 0x69cade33#32, 0x0033e325#32⟩, 0#6, 64#64) := by decide +kernel

/-- R120's example. -/
theorem test_reset :
    after (exec .reset { State.reset with
      h := ⟨0x90015098#32, 0x3cd24fb0#32, 0xd6963f7d#32, 0x28e17f72#32⟩, totalLength := 3#64, pendingLen := 3#6 })
      (fun t => (t.h, t.totalLength, t.pendingLen, t.responses)) =
      some (⟨0x67452301#32, 0xefcdab89#32, 0x98badcfe#32, 0x10325476#32⟩, 0#64, 0#6, []) := by decide

/-- P2: "abc", one final block. -/
theorem test_finalize_one_block :
    after (exec .finalize { State.reset with
      pending := [(0, 0x61#8), (1, 0x62#8), (2, 0x63#8)], pendingLen := 3#6, totalLength := 3#64 })
      (fun t => (t.responses, t.h, t.totalLength, t.pendingLen)) =
      some ([0x727fe1287d3f96d6b04fd23c98500190#128], initQuad, 0#64, 0#6) := by decide +kernel

/-- V9: 56 bytes, two final blocks. -/
theorem test_finalize_two_blocks :
    after (exec .finalize (holding 56)) (fun t => t.responses.map (fun d => hexChars (busBytes d))) =
      some ["3b0c8ac703f828b04c6c197006d17218".toList] := by decide +kernel

/-- R99 and V20: the listing line of round 0. -/
theorem test_listing_line :
    after (exec (.roundF 0#6) (midState 0x80#8 0x67452301#32 0xefcdab89#32 0x98badcfe#32 0x10325476#32))
      (listingLine 0x80#8 (.roundF 0#6)) = some "80  ROUND_F  10325476 a5202774 efcdab89 98badcfe" := by decide +kernel

/-- The interface: a table word placed where the next step takes its instruction runs as the first after reset. -/
theorem test_fetch_word_runs :
    after (step (State.reset.withFetchWord 16 0x161)) (fun t => t.totalLength) = some 1#64 ∧
      after (step (State.reset.withFetchWord 8 0x40)) (fun t => t.seq) = some 0x80#8 := by decide +kernel

/-- U2: a reserved word at the port is refused. -/
theorem test_reserved_word_refused :
    (match step { State.reset with hostActs := [.word 0x201#10] } with
      | .refused r => decide (r = .reservedCommandWord 0x201#10)
      | _ => false) = true := by decide

/-! ### Witnesses: for every statement with hypotheses, states and operands that meet them -/

/-- An engine at rest to which the host does `acts`. -/
def restWith (acts : List HostAct) : State := { State.reset with hostActs := acts }

/-- An engine inside a command that has come as far as `a`, with no micro-operation due. -/
def busyAt (a : Activity) : State := { State.reset with cmdReady := false, activity := a }

theorem restWith_atRest (acts : List HostAct) : (restWith acts).AtRest := ⟨rfl, rfl, rfl, rfl, rfl⟩

theorem holding_atRest (n : Nat) : (holding n).AtRest := ⟨rfl, rfl, rfl, rfl, rfl⟩

theorem reset_inv : State.reset.Inv where
  buffer := by decide
  seqLegal := by decide
  ready := by decide
  settled := by decide
  wrapped := by decide
  trigger := by decide
  response := by decide
  length := rfl
  latch := by rintro (h | h | ⟨k, h⟩) <;> cases h

theorem absorbing_inv (acts : List HostAct) : ({ busyAt .absorbing with hostActs := acts } : State).Inv where
  buffer := rfl
  seqLegal := rfl
  ready := by simp [busyAt]
  settled := by simp [busyAt]
  wrapped := by simp [State.midCompression, busyAt, State.reset]
  trigger := by simp [busyAt, State.reset]
  response := by simp [busyAt, State.reset]
  length := rfl
  latch := by rintro (h | h | ⟨k, h⟩) <;> cases h

theorem readOut_inv : (busyAt .readOut).Inv where
  buffer := by decide
  seqLegal := by decide
  ready := by decide
  settled := by decide
  wrapped := by decide
  trigger := by decide
  response := by decide
  length := rfl
  latch := by rintro (h | h | ⟨k, h⟩) <;> cases h

theorem witness_DecodingAnEncodedInstructionGivesItBack :
    (Instr.absorb 0xff#8).wellFormed = true ∧ (Instr.roundF 0#6).wellFormed = true ∧
      (Instr.roundI 63#6).wellFormed = true := by decide

theorem witness_EncodingADecodedWordGivesItBack :
    decode (.cmd 0x1ff#10) = .ok (.absorb 0xff#8) ∧ decode (.seq 0xbf#8) = .ok (.roundI 63#6) := by decide

theorem witness_ReservedCommandWordsAreRefused :
    (restWith [.word 0x201#10]).AtRest ∧ (restWith [.word 0x201#10]).hostActs = .word 0x201#10 :: [] ∧
      decode (.cmd 0x201#10) = .error (.reservedCommand 0x201#10) := ⟨restWith_atRest _, rfl, by decide⟩

theorem witness_FetchWordRunsTheTableInstruction :
    decodeTableWord 16 0x300 = some .reset ∧ decodeTableWord 8 0x00 = some .idle ∧
      decodeTableWord 8 0xc0 = some .feedfwd := by decide

theorem witness_StepRunsTheAcceptedCommand :
    (restWith [.word 0x161#10, .pause]).AtRest ∧ decode (.cmd 0x161#10) = .ok (.absorb 0x61#8) ∧
      (restWith [.word 0x161#10, .pause]).detail = .command ∧
      ({ restWith [.word 0x161#10, .pause] with detail := .micro } : State).AtRest :=
  ⟨restWith_atRest _, by decide, rfl, ⟨rfl, rfl, rfl, rfl, rfl⟩⟩

theorem witness_StepRunsTheMicroOperationSeqNames :
    (midState 0xbf#8 0#32 0#32 0#32 0#32).midCompression = true ∧
      (∀ rest, (midState 0xbf#8 0#32 0#32 0#32 0#32).hostActs ≠ .rst :: rest) ∧
      decode (.seq (midState 0xbf#8 0#32 0#32 0#32 0#32).seq) = .ok (.roundI 63#6) :=
  ⟨by decide, fun _ => nofun, by decide⟩

/-- Every activity with a clause of its own, `pending_len` 55, 56, 63 and 0 among them. -/
theorem witness_StepOfABusyEngineIsItsControl :
    [busyAt .absorbing, busyAt .responding, busyAt .padMark, busyAt .padZeros, { busyAt .padZeros with pendingLen := 55#6 },
      { busyAt .padZeros with pendingLen := 56#6 }, { busyAt (.padLength 0#3) with pendingLen := 56#6 },
      { busyAt (.padLength 7#3) with pendingLen := 63#6 }, busyAt .readOut].all
        (fun s => !s.midCompression && !s.cmdReady && !s.rstAsserted) = true ∧
      ∀ a rest, (busyAt a).hostActs ≠ .rst :: rest :=
  ⟨by decide, fun _ _ => nofun⟩

theorem witness_AtRestTheEngineHoldsItsState :
    (restWith []).AtRest ∧ (restWith []).hostActs = [] ∧ (restWith [.pause, .rst]).AtRest ∧
      (restWith [.pause, .rst]).hostActs = .pause :: [.rst] :=
  ⟨restWith_atRest _, rfl, restWith_atRest _, rfl⟩

theorem witness_AWordPresentedToABusyEngineIsHeld :
    ({ busyAt .absorbing with hostActs := [.word 0x161#10] } : State).Inv ∧
      ({ busyAt .absorbing with hostActs := [.word 0x161#10] } : State).cmdReady = false :=
  ⟨absorbing_inv _, rfl⟩

theorem witness_AcceptanceLowersReady :
    ({ holding 63 with detail := .micro, hostActs := [.word 0x200#10] } : State).AtRest ∧
      ({ holding 63 with detail := .micro, hostActs := [.word (0b01#2 ++ 0xff#8)] } : State).AtRest :=
  ⟨⟨rfl, rfl, rfl, rfl, rfl⟩, ⟨rfl, rfl, rfl, rfl, rfl⟩⟩

theorem witness_HardwareResetAbandonsEverything :
    ({ midState 0xa0#8 1#32 2#32 3#32 4#32 with hostActs := [.rst, .word 0x161#10] } : State).hostActs =
      .rst :: [.word 0x161#10] := rfl

theorem witness_AbsorbStoresAByteAndCompressesAFullBlock :
    ((holding 0).pending.wf = true ∧ (holding 0).pendingLen ≠ 63#6) ∧
      ((holding 62).pending.wf = true ∧ (holding 62).pendingLen ≠ 63#6) ∧
      (holding 63).pending.wf = true ∧ (holding 63).pendingLen = 63#6 := by decide

theorem witness_FinalizeCompressesTheOneOrTwoFinalBlocks :
    [0, 55, 56, 63].all (fun n =>
      (holding n).pending.wf && decide ((holding n).pendingLen = (holding n).totalLength.setWidth 6)) = true := by
  decide

theorem witness_FinalizeAlwaysSucceeds :
    (restWith []).pending.wf = true ∧ (restWith []).hashState = HashState.initial := by decide

/-- Two states that differ in the transient state and in the stale cells. -/
theorem witness_CommandsReadThePersistentStateOnly :
    isCommand .finalize = true ∧ State.reset.pending.wf = true ∧ (midState 0x00#8 1#32 2#32 3#32 4#32).pending.wf = true ∧
      State.reset.hashState = (midState 0x00#8 1#32 2#32 3#32 4#32).hashState := by decide

theorem witness_FinalizeLeavesAFreshEngine :
    (holding 3).pending.wf = true ∧ ∀ i ∈ [Instr.absorb 0x61#8, .finalize], isCommand i = true := by decide

theorem witness_OnlyFinalizeResponds :
    exec (.absorb 0x61#8) State.reset = .next (settle (putByte 0x61#8 { State.reset with totalLength := add64 0#64 1#64 })) ∧
      Instr.absorb 0x61#8 ≠ .finalize := ⟨rfl, by decide⟩

theorem witness_ZeroCountIsTheLeastThatAligns :
    ((55#64).toNat + 1 + 0) % 64 = 56 ∧ (55#64).toNat % 64 ≤ 55 ∧ 56 ≤ (56#64).toNat % 64 := by decide

theorem witness_IdleSelectsSeedWhenABlockCompletes :
    ({ busyAt .absorbing with blockReady := true } : State).blockReady = true ∧ State.reset.blockReady = false := by
  decide

theorem witness_RoundFTransformsTheWorkingRegisters : (0#6).toNat ≤ 15 ∧ (15#6).toNat ≤ 15 := by decide
theorem witness_RoundGTransformsTheWorkingRegisters :
    (16 ≤ (16#6).toNat ∧ (16#6).toNat ≤ 31) ∧ (16 ≤ (31#6).toNat ∧ (31#6).toNat ≤ 31) := by decide
theorem witness_RoundHTransformsTheWorkingRegisters :
    (32 ≤ (32#6).toNat ∧ (32#6).toNat ≤ 47) ∧ (32 ≤ (47#6).toNat ∧ (47#6).toNat ≤ 47) := by decide
theorem witness_RoundITransformsTheWorkingRegisters : 48 ≤ (48#6).toNat ∧ 48 ≤ (63#6).toNat := by decide

theorem witness_MixingFunctionsByBit : 0 < 32 ∧ 31 < 32 := by decide

theorem witness_RotationMovesEveryBit : 1 ≤ 1 ∧ 1 ≤ 31 ∧ 31 ≤ 31 ∧ 31 < 32 := by decide

theorem witness_MessageScheduleIsFourPermutations :
    (15#6).toNat ≤ 15 ∧ (16 ≤ (31#6).toNat ∧ (31#6).toNat ≤ 31) ∧ (32 ≤ (47#6).toNat ∧ (47#6).toNat ≤ 47) ∧
      48 ≤ (63#6).toNat ∧ 3 < 4 := by decide

theorem witness_ResponseBusIsDCBA : 0 < 4 ∧ 3 < 4 := by decide

theorem witness_CompressionTakesSixtySixSteps :
    (midState 0x40#8 0#32 0#32 0#32 0#32).seq = 0x40#8 ∧ (midState 0x40#8 0#32 0#32 0#32 0#32).hostActs = [] ∧ 65 < 66 := by
  decide

/-- R129, R130, R131: a buffer that holds 63 bytes. -/
theorem witness_UpdateHasTheListForm : (holding 63).pending.wf = true := by decide
theorem witness_UpdateEqualsItsBurst : (holding 1).pending.wf = true := by decide
theorem witness_ChunkingLeavesNoTrace : (holding 62).pending.wf = true := by decide

theorem witness_AbsorbedMessageDeterminesThePersistentState :
    State.reset.pending.wf = true ∧ State.reset.hashState = HashState.initial := by decide

theorem witness_EveryMessageGetsItsDigest :
    let s := restWith (presentWords (scriptWords [.update (.hex [0x61#8]), .finalize]) ++ [.pause])
    s.AtRest ∧ s.pending.wf = true ∧ s.detail = .command ∧ s.hashState = HashState.initial :=
  ⟨restWith_atRest _, by decide +kernel, rfl, by decide +kernel⟩

theorem witness_OneShotRespondsWithTheDigest :
    let s : State := { holding 4 with hostActs := presentWords (scriptWords [.oneshot (.hex [0x61#8])]) }
    s.AtRest ∧ s.pending.wf = true ∧ s.detail = .command :=
  ⟨⟨rfl, rfl, rfl, rfl, rfl⟩, by decide +kernel, rfl⟩

theorem witness_HexIsABijection :
    (List.replicate 16 0x0c#8).length = 16 ∧ (List.replicate 32 'f').length = 32 ∧
      ∀ c ∈ List.replicate 32 'f', c ∈ hexDigits :=
  ⟨by decide, by decide, fun c hc => by rw [List.eq_of_mem_replicate hc]; decide⟩

theorem witness_EveryStepKeepsTheStateLegal :
    State.reset.Inv ∧ step State.reset = .next State.reset := ⟨reset_inv, rfl⟩

theorem witness_OnlyReservedCommandWordsStop : (restWith []).Inv := reset_inv

theorem witness_MicroOperationRunEqualsTheCommand :
    let s : State := { holding 63 with detail := .micro, hostActs := [.word 0x200#10] }
    s.AtRest ∧ s.pending.wf = true ∧ s.pendingLen = s.totalLength.setWidth 6 ∧
      decode (.cmd 0x200#10) = .ok .finalize :=
  ⟨⟨rfl, rfl, rfl, rfl, rfl⟩, by decide +kernel, by decide +kernel, by decide +kernel⟩

/-- The step that ends an ABSORB, with two pauses before a held word. -/
theorem witness_FurtherHostActsWaitForTheCommand :
    (busyAt .absorbing).hostActs = [] ∧ (∃ w r, [HostAct.word 0x161#10] = .word w :: r) ∧
      (∀ k, k < 1 → ∃ u, runSteps k (busyAt .absorbing) = .next u ∧ u.cmdReady = false) ∧
      runSteps 1 (busyAt .absorbing) = .next (settle (busyAt .absorbing)) :=
  ⟨rfl, ⟨_, _, rfl⟩, fun k hk => ⟨busyAt .absorbing, by rw [Nat.lt_one_iff.mp hk]; rfl, rfl⟩, rfl⟩

theorem witness_EveryCommandFinishes :
    ({ busyAt .absorbing with hostActs := [] } : State).Inv ∧ (busyAt .absorbing).cmdReady = false :=
  ⟨absorbing_inv [], rfl⟩

theorem witness_ResponseInstantPrecedesReady :
    (busyAt .readOut).Inv ∧ (busyAt .readOut).activity = .readOut ∧ (busyAt .readOut).midCompression = false ∧
      (busyAt .readOut).hostActs = [] := ⟨readOut_inv, rfl, by decide, rfl⟩

theorem witness_InstancesDoNotInteract :
    (0 : Nat) ≠ 1 ∧ [State.reset, restWith [.pause]][0]? = some State.reset ∧
      [State.reset, restWith [.pause]][1]? = some (restWith [.pause]) ∧
      step State.reset = .next State.reset ∧ step (restWith [.pause]) = .next State.reset :=
  ⟨by decide, rfl, rfl, rfl, rfl⟩

end Sys2Proof.Tests
end

section
/-!
PROOFS. The scope's operations (00_scope.md): the byte order of R10 and what an engine at rest does with a presented word
(R13, R82).
-/

namespace Sys2Proof.Machine

/-! ### Byte order (R10) -/

/-- A byte put below a bit vector is the first of its little-endian bytes. -/
theorem bytesLe_append_byte {m : Nat} (hi : BitVec m) (lo : Byte) (n : Nat) :
    bytesLe (hi ++ lo) (n + 1) = lo :: bytesLe hi n := by
  simp only [bytesLe, List.range_succ_eq_map, List.map_cons, List.map_map, List.cons.injEq]
  refine ⟨BitVec.extractLsb'_append_eq_right, List.map_congr_left fun k _ => ?_⟩
  have hstart : 8 * (k + 1) - 8 = 8 * k := by omega
  simp only [Function.comp_apply, Nat.succ_eq_add_one]
  rw [BitVec.extractLsb'_append_eq_of_le (by omega), hstart]

/-- A byte put below a bit vector has weight 1; the vector moves up by 2^8. -/
theorem toNat_append_byte {m : Nat} (hi : BitVec m) (lo : Byte) : (hi ++ lo).toNat = 2 ^ 8 * hi.toNat + lo.toNat := by
  rw [BitVec.toNat_append, ← Nat.shiftLeft_add_eq_or_of_lt lo.isLt, Nat.shiftLeft_eq, Nat.mul_comm]

/-- R10: the weighted sum of the four bytes. -/
theorem le32_toNat (b0 b1 b2 b3 : Byte) :
    (le32 b0 b1 b2 b3).toNat = b0.toNat + 2 ^ 8 * b1.toNat + 2 ^ 16 * b2.toNat + 2 ^ 24 * b3.toNat := by
  change (b3 ++ b2 ++ b1 ++ b0).toNat = _
  simp only [toNat_append_byte]
  omega

theorem bytesLe_le32 (b0 b1 b2 b3 : Byte) : bytesLe (le32 b0 b1 b2 b3) 4 = [b0, b1, b2, b3] := by
  change bytesLe (b3 ++ b2 ++ b1 ++ b0) 4 = _
  have htop : bytesLe b3 1 = [b3] := congrArg (· :: []) BitVec.extractLsb'_eq_self
  simp only [bytesLe_append_byte, htop]

/-- The word of a word's four bytes is the word: the bytes are its digits in base 2^8. -/
theorem le32_extractLsb' (v : Word) :
    le32 (v.extractLsb' 0 8) (v.extractLsb' 8 8) (v.extractLsb' 16 8) (v.extractLsb' 24 8) = v := by
  apply BitVec.eq_of_toNat_eq
  simp only [le32_toNat, BitVec.extractLsb'_toNat, Nat.shiftRight_eq_div_pow]
  omega

/-! ### An engine at rest (R82) -/

theorem State.AtRest.midCompression_eq_false {s : State} (h : s.AtRest) : s.midCompression = false := by
  simp [State.midCompression, h.idle, h.noBlock]

/-- R82: at rest, the step accepts the presented word. -/
theorem step_atRest_word {s : State} {w : CmdWord} {rest : List HostAct} (h : s.AtRest)
    (hacts : s.hostActs = .word w :: rest) : step s = acceptWord w { s with hostActs := rest } := by
  have hrunning : step s = stepRunning s := by simp only [step, stepOnce, hacts]
  have hatRest : stepRunning s = stepAtRest s := by simp [stepRunning, h.midCompression_eq_false, h.ready]
  rw [hrunning, hatRest]
  simp only [stepAtRest, hacts]

/-- R13: an accepted word runs as one step at the command level. -/
theorem acceptWord_command {w : CmdWord} {i : Instr} {s : State} (hdecode : decode (.cmd w) = .ok i)
    (hdetail : s.detail = .command) : acceptWord w s = exec i s := by
  simp only [acceptWord, hdecode, hdetail]

/-- R191: an accepted word is begun at the micro-operation level. -/
theorem acceptWord_micro {w : CmdWord} {i : Instr} {s : State} (hdecode : decode (.cmd w) = .ok i)
    (hdetail : s.detail = .micro) : acceptWord w s = startCommand i s := by
  simp only [acceptWord, hdecode, hdetail]

/-! ### The obligations -/

/-- Settles O35: `bytesLe_le32` and `le32_extractLsb'` are the two directions, `le32_toNat` is the sum of R10. -/
theorem wordsAndBytesAreLittleEndian : Obligations.WordsAndBytesAreLittleEndian :=
  ⟨le32_extractLsb', fun b0 b1 b2 b3 => ⟨bytesLe_le32 b0 b1 b2 b3, le32_toNat b0 b1 b2 b3⟩⟩

/-- Settles O7: at rest the step is the acceptance of the word, which each level runs in its own way. -/
theorem stepRunsTheAcceptedCommand : Obligations.StepRunsTheAcceptedCommand := by
  intro s w rest i hrest hacts hdecode
  have hstep := step_atRest_word hrest hacts
  exact ⟨fun hdetail => hstep.trans (acceptWord_command hdecode hdetail),
    fun hdetail => hstep.trans (acceptWord_micro hdecode hdetail)⟩

end Sys2Proof.Machine
end

section
/-!
PROOFS. The state of 10_state.md: what each value of `seq` runs, that every step keeps the state legal, and what the absorbed
message determines.
-/

namespace Sys2Proof.Machine

/-! ### Which states are legal at rest -/

theorem State.midCompression_eq_false_iff {s : State} :
    s.midCompression = false ↔ s.seq = 0x00#8 ∧ s.blockReady = false := by
  simp [State.midCompression]

/-- A state at rest is legal as soon as its buffer is canonical and its two counts agree (R26 item 4). -/
theorem State.AtRest.inv {s : State} (h : s.AtRest) (hbuf : s.pending.wf = true)
    (hlen : s.pendingLen = s.totalLength.setWidth 6) : s.Inv where
  buffer := hbuf
  seqLegal := by rw [h.idle]; rfl
  ready := by simp [h.ready, h.noCommand]
  settled := fun _ => h.midCompression_eq_false
  wrapped := by simp [h.midCompression_eq_false]
  trigger := by simp [h.noBlock]
  response := by simp [h.noResponse, h.noCommand]
  length := by simpa only [State.lengthAgrees, h.noCommand] using hlen
  latch := by simp [h.noCommand]

/-- A legal engine with `cmd_ready` 1 is at rest. -/
theorem State.Inv.atRest {s : State} (h : s.Inv) (hready : s.cmdReady = true) : s.AtRest := by
  have hact : s.activity = .rest := h.ready.mp hready
  obtain ⟨hseq, hblock⟩ := State.midCompression_eq_false_iff.mp (h.settled (.inl hact))
  exact ⟨hact, hready, hseq, hblock, by simpa [hact] using h.response⟩

/-- R26 item 4, at rest and inside a command until the padding begins. -/
theorem State.Inv.counts_agree {s : State} (h : s.Inv)
    (hact : s.activity = .rest ∨ s.activity = .absorbing ∨ s.activity = .padMark) :
    s.pendingLen = s.totalLength.setWidth 6 := by
  have hlen := h.length
  unfold State.lengthAgrees at hlen
  obtain hact | hact | hact := hact <;> simpa only [hact] using hlen

/-- The host's acts are no part of what makes a state legal. -/
theorem State.Inv.withHostActs {s : State} (h : s.Inv) (acts : List HostAct) :
    ({ s with hostActs := acts } : State).Inv :=
  ⟨h.buffer, h.seqLegal, h.ready, h.settled, h.wrapped, h.trigger, h.response, h.length, h.latch⟩

theorem State.Inv.tick {s : State} (h : s.Inv) : (tick s).Inv := by
  rw [tick_eq]
  exact h.withHostActs _

/-- R82: a command's end is an engine at rest when no compression is due. -/
theorem settle_atRest {s : State} (hmid : s.midCompression = false) : (settle s).AtRest := by
  obtain ⟨hseq, hblock⟩ := State.midCompression_eq_false_iff.mp hmid
  exact ⟨rfl, rfl, hseq, hblock, rfl⟩

theorem settle_inv {s : State} (hbuf : s.pending.wf = true) (hmid : s.midCompression = false)
    (hlen : s.pendingLen = s.totalLength.setWidth 6) : (settle s).Inv :=
  (settle_atRest hmid).inv hbuf hlen

/-! ### The micro-operation each legal value of `seq` names (R28, R90) -/

/-- The round micro-operation of index `i`: the one of its group (R91). -/
def roundInstr (i : RoundIndex) : Instr :=
  match (roundGroup i).toNat with
  | 0 => .roundF i
  | 1 => .roundG i
  | 2 => .roundH i
  | _ => .roundI i

theorem exec_roundInstr (i : RoundIndex) (s : State) :
    exec (roundInstr i) s = .next (roundOp (mixOf (roundGroup i)) i s) := by
  unfold roundInstr mixOf
  generalize (roundGroup i).toNat = group
  obtain _ | _ | _ | group := group <;> rfl

/-- R90: the words 0x80 to 0xBF name the rounds. -/
theorem decodeSeq_round : ∀ q : SeqWord, 0x80 ≤ q.toNat → q.toNat < 0xC0 →
    decodeSeq q = .ok (roundInstr (seqRnd q)) := by
  decide

/-- R28: the four kinds of legal `seq`. -/
theorem legalSeq_cases {q : SeqWord} (h : legalSeq q = true) :
    q = 0x00#8 ∨ q = 0x40#8 ∨ (0x80 ≤ q.toNat ∧ q.toNat < 0xC0) ∨ q = 0xC0#8 := by
  simp only [legalSeq, Bool.or_eq_true, beq_iff_eq, Bool.and_eq_true, decide_eq_true_eq] at h
  bv_omega

theorem runSequencer_idle {s : State} (h : s.seq = 0x00#8) : runSequencer s = .next (idleOp s) :=
  runSequencer_ok s .idle (by rw [h]; decide)

theorem runSequencer_seed {s : State} (h : s.seq = 0x40#8) : runSequencer s = .next (seedOp s) :=
  runSequencer_ok s .seed (by rw [h]; decide)

theorem runSequencer_round {s : State} (hlo : 0x80 ≤ s.seq.toNat) (hhi : s.seq.toNat < 0xC0) :
    runSequencer s = .next (roundOp (mixOf (roundGroup s.rnd)) s.rnd s) :=
  (runSequencer_ok s _ (decodeSeq_round s.seq hlo hhi)).trans (exec_roundInstr _ s)

theorem runSequencer_feedfwd {s : State} (h : s.seq = 0xC0#8) : runSequencer s = .next (feedfwdOp s) :=
  runSequencer_ok s .feedfwd (by rw [h]; decide)

/-! ### The sequencer keeps the state legal -/

/-- While a compression is due or runs, a step that writes `h`, `w`, `seq` and the trigger only keeps the state legal. -/
theorem State.Inv.compressing {s : State} (h : s.Inv) (hmid : s.midCompression = true) (acc work : Quad) {q : SeqWord}
    {ready : Bool} (hseq : legalSeq q = true) (htrigger : ready = true → q = 0x00#8) :
    ({ s with h := acc, w := work, seq := q, blockReady := ready } : State).Inv where
  buffer := h.buffer
  seqLegal := hseq
  ready := h.ready
  settled := fun hact => absurd (h.settled hact) (by simp [hmid])
  wrapped := fun _ => h.wrapped hmid
  trigger := htrigger
  response := h.response
  length := h.length
  latch := h.latch

/-- R90: every micro-operation that is due leads from a legal state to a legal state. -/
theorem runSequencer_keeps_inv {s t : State} (h : s.Inv) (hmid : s.midCompression = true)
    (hrun : runSequencer s = .next t) : t.Inv := by
  have noTrigger : s.seq ≠ 0x00#8 → ∀ q : SeqWord, s.blockReady = true → q = 0x00#8 :=
    fun hne _ hready => absurd (h.trigger hready) hne
  obtain hq | hq | ⟨hlo, hhi⟩ | hq := legalSeq_cases h.seqLegal
  · have hready : s.blockReady = true := by simpa [State.midCompression, hq] using hmid
    rw [runSequencer_idle hq] at hrun
    cases hrun
    exact h.compressing hmid s.h s.w (by simp [hready, legalSeq]) nofun
  · rw [runSequencer_seed hq] at hrun
    cases hrun
    exact h.compressing hmid s.h s.h (by decide) (noTrigger (by simp [hq]) _)
  · rw [runSequencer_round hlo hhi] at hrun
    cases hrun
    have hnext : legalSeq (s.seq + 1#8) = true := by
      simp only [legalSeq, Bool.or_eq_true, beq_iff_eq, Bool.and_eq_true, decide_eq_true_eq]
      bv_omega
    exact h.compressing hmid s.h _ hnext (noTrigger (by bv_omega) _)
  · rw [runSequencer_feedfwd hq] at hrun
    cases hrun
    exact h.compressing hmid _ s.w (by decide) (fun _ => rfl)

/-! ### The control of a command in progress keeps the state legal (R161) -/

/-- One more byte moves both counts alike (R26 item 4). -/
theorem setWidth_add64_one (n : Length) : (add64 n 1#64).setWidth 6 = n.setWidth 6 + 1#6 := by
  simp [add64, BitVec.setWidth_add]

/-- R25, R161: PutByte in its byte-serial form, inside a command, with the activity that comes after it. -/
theorem putByteSerial_inv {s : State} (v : Byte) {a : Activity} (hbuf : s.pending.wf = true) (hseq : s.seq = 0x00#8)
    (hready : s.cmdReady = false) (hresponse : s.rspValid = false)
    (ha : a ≠ .rest ∧ a ≠ .padMark ∧ a ≠ .responding)
    (hlen : ({ putByteSerial v s with activity := a } : State).lengthAgrees)
    (hlatch : (a = .padMark ∨ a = .padZeros ∨ ∃ k, a = .padLength k) → s.bitlen = mul8_64 s.totalLength) :
    ({ putByteSerial v s with activity := a } : State).Inv := by
  obtain ⟨hrest, hmark, hresponding⟩ := ha
  have hwrap : s.fillsBlock = true → s.pendingLen + 1#6 = 0#6 := by
    intro hfull
    rw [show s.pendingLen = 63#6 by simpa [State.fillsBlock] using hfull]
    rfl
  exact {
    buffer := Memory.write_at_fill_wf s.pending s.pendingLen v hbuf
    seqLegal := by simp [hseq, legalSeq]
    ready := by simp [hready, hrest]
    settled := by simp [hrest, hmark, hresponding]
    wrapped := by simpa [State.midCompression, hseq] using hwrap
    trigger := fun _ => hseq
    response := by simp [hresponse, hresponding]
    length := hlen
    latch := hlatch }

/-- F5, F6: the initial state, with the response on the port. -/
theorem serialReadOut_inv {s : State} (h : s.Inv) (hact : s.activity = .readOut) : (serialReadOut s).Inv where
  buffer := h.buffer
  seqLegal := rfl
  ready := by simpa [serialReadOut, hact] using h.ready
  settled := fun _ => rfl
  wrapped := fun _ => rfl
  trigger := nofun
  response := by simp [serialReadOut]
  length := ⟨rfl, rfl⟩
  latch := by simp [serialReadOut]

section
variable {s : State} (h : s.Inv) (hmid : s.midCompression = false)
include h hmid

/-- F2: the byte 0x80. -/
theorem serialMark_inv (hact : s.activity = .padMark) : (serialMark s).Inv :=
  putByteSerial_inv 0x80#8 h.buffer (State.midCompression_eq_false_iff.mp hmid).1 (by simpa [hact] using h.ready)
    (by simpa [hact] using h.response) (by simp) trivial fun _ => h.latch (.inl hact)

/-- F3: a byte 0x00, or the end of the loop at index 56. -/
theorem serialZero_inv (hact : s.activity = .padZeros) : (serialZero s).Inv := by
  have hready : s.cmdReady = false := by simpa [hact] using h.ready
  have hresponse : s.rspValid = false := by simpa [hact] using h.response
  have hlatch : s.bitlen = mul8_64 s.totalLength := h.latch (.inr (.inl hact))
  unfold serialZero
  split
  · rename_i hdone
    exact {
      buffer := h.buffer
      seqLegal := h.seqLegal
      ready := by simp [hready]
      settled := fun _ => hmid
      wrapped := h.wrapped
      trigger := h.trigger
      response := by simp [hresponse]
      length := by simpa [State.lengthAgrees, State.zerosDone] using hdone
      latch := fun _ => hlatch }
  · have hput : ({ putByteSerial 0x00#8 s with activity := .padZeros } : State).Inv :=
      putByteSerial_inv 0x00#8 h.buffer (State.midCompression_eq_false_iff.mp hmid).1 hready hresponse (by simp) trivial
        fun _ => hlatch
    rwa [← hact] at hput

/-- F4: byte `k` of the bit length goes to index `56 + k`; the last one completes the block. -/
theorem serialLength_inv {k : BitVec 3} (hact : s.activity = .padLength k) : (serialLength k s).Inv := by
  have hlen : s.pendingLen = 56#6 + k.setWidth 6 := by simpa only [State.lengthAgrees, hact] using h.length
  have hput {a : Activity} := putByteSerial_inv (a := a) (s.bitlen.extractLsb' (8 * k.toNat) 8) h.buffer
    (State.midCompression_eq_false_iff.mp hmid).1 (by simpa [hact] using h.ready) (by simpa [hact] using h.response)
  have hlatch : s.bitlen = mul8_64 s.totalLength := h.latch (.inr (.inr ⟨k, hact⟩))
  unfold serialLength
  split
  · rename_i hlast
    refine hput (by simp) ?_ fun _ => hlatch
    simp [State.lengthAgrees, hlen, hlast]
  · rename_i hmore
    refine hput (by simp) ?_ fun _ => hlatch
    simp only [State.lengthAgrees, putByteSerial_pendingLen, hlen]
    bv_omega

/-- The control of a command in progress leads from a legal state to a legal state. -/
theorem commandControl_keeps_inv : (commandControl s).Inv := by
  unfold commandControl
  cases hact : s.activity with
  | rest => exact settle_inv h.buffer hmid (h.counts_agree (by simp [hact]))
  | absorbing => exact settle_inv h.buffer hmid (h.counts_agree (by simp [hact]))
  | padMark => exact serialMark_inv h hmid hact
  | padZeros => exact serialZero_inv h hmid hact
  | padLength k => exact serialLength_inv h hmid hact
  | readOut => exact serialReadOut_inv h hact
  | responding =>
    obtain ⟨hfill, htotal⟩ : s.pendingLen = 0#6 ∧ s.totalLength = 0#64 := by
      simpa only [State.lengthAgrees, hact] using h.length
    exact settle_inv h.buffer hmid (by rw [hfill, htotal]; rfl)

end

/-! ### Commands keep the state legal -/

/-- R83: the command port's decoder answers commands only. -/
theorem decodeCmd_command {w : CmdWord} {i : Instr} (h : decodeCmd w = .ok i) :
    (∃ v, i = .absorb v) ∨ i = .finalize ∨ i = .reset := by
  unfold decodeCmd at h
  split_ifs at h <;> cases h <;> simp

theorem acceptWord_cases {w : CmdWord} {s t : State} (h : acceptWord w s = .next t) :
    ∃ i, decodeCmd w = .ok i ∧ (exec i s = .next t ∨ startCommand i s = .next t) := by
  unfold acceptWord at h
  split at h
  · cases h
  · rename_i i hdecode
    refine ⟨i, hdecode, ?_⟩
    split at h
    · exact .inl h
    · exact .inr h

/-- PutByte leaves no micro-operation due (R123: the compression runs at once). -/
theorem putByte_midCompression (v : Byte) {s : State} (hmid : s.midCompression = false) :
    (putByte v s).midCompression = false := by
  cases hfull : s.fillsBlock with
  | false => rw [putByte_below v s hfull]; exact hmid
  | true => rw [putByte_full v s hfull]; simp [State.midCompression]

theorem reinit_settle_inv {s : State} (hbuf : s.pending.wf = true) : (settle (reinit s)).Inv :=
  settle_inv hbuf rfl rfl

section
variable {s t : State} (h : s.Inv) (hrest : s.AtRest)
include h hrest

/-- A whole command (R13). -/
theorem exec_command_keeps_inv {w : CmdWord} {i : Instr} (hdecode : decodeCmd w = .ok i) (hexec : exec i s = .next t) :
    t.Inv := by
  obtain ⟨v, rfl⟩ | rfl | rfl := decodeCmd_command hdecode
  · cases hexec
    refine settle_inv (putByte_keeps_wf v _ h.buffer) (putByte_midCompression v hrest.midCompression_eq_false) ?_
    rw [putByte_pendingLen, (putByte_frame v _).1, setWidth_add64_one, ← h.counts_agree (.inl hrest.noCommand)]
  · cases hexec
    exact settle_inv (putBytes_keeps_wf _ _ h.buffer) rfl rfl
  · cases hexec
    exact reinit_settle_inv h.buffer

/-- R121: an ABSORB begun at the micro-operation level. -/
theorem startAbsorb_inv (v : Byte) : (startAbsorb v s).Inv := by
  refine putByteSerial_inv (s := { s with totalLength := add64 s.totalLength 1#64, cmdReady := false }) v h.buffer hrest.idle
    rfl hrest.noResponse (by simp) ?_ (by simp)
  exact ((congrArg (· + 1#6) (h.counts_agree (.inl hrest.noCommand))).trans (setWidth_add64_one _).symm)

/-- R151: a FINALIZE begun at the micro-operation level has latched the bit length. -/
theorem startFinalize_inv : (startFinalize s).Inv where
  buffer := h.buffer
  seqLegal := h.seqLegal
  ready := by simp [startFinalize]
  settled := fun _ => hrest.midCompression_eq_false
  wrapped := h.wrapped
  trigger := h.trigger
  response := by simp [startFinalize, hrest.noResponse]
  length := h.counts_agree (.inl hrest.noCommand)
  latch := fun _ => rfl

/-- A command begun at the micro-operation level (log entry 5). -/
theorem startCommand_keeps_inv {w : CmdWord} {i : Instr} (hdecode : decodeCmd w = .ok i)
    (hstart : startCommand i s = .next t) : t.Inv := by
  obtain ⟨v, rfl⟩ | rfl | rfl := decodeCmd_command hdecode
  · cases hstart
    exact startAbsorb_inv h hrest v
  · cases hstart
    exact startFinalize_inv h hrest
  · cases hstart
    exact reinit_settle_inv h.buffer

/-- R82, R262: an engine at rest accepts a word or holds its state. -/
theorem stepAtRest_keeps_inv (hstep : stepAtRest s = .next t) : t.Inv := by
  obtain ⟨w, rest, -, haccept⟩ | ⟨-, hidle⟩ := stepAtRest_cases s
  · have hrest' : ({ s with hostActs := rest } : State).AtRest :=
      ⟨hrest.noCommand, hrest.ready, hrest.idle, hrest.noBlock, hrest.noResponse⟩
    obtain ⟨i, hdecode, hexec | hstart⟩ := acceptWord_cases (haccept.symm.trans hstep)
    · exact exec_command_keeps_inv (h.withHostActs rest) hrest' hdecode hexec
    · exact startCommand_keeps_inv (h.withHostActs rest) hrest' hdecode hstart
  · rw [hidle] at hstep
    cases hstep
    have hidleRest : (idleOp (tick s)).AtRest := ⟨by simp [hrest.noCommand], by simp [hrest.ready],
      by simp [hrest.noBlock], rfl, by simp [hrest.noResponse]⟩
    exact hidleRest.inv (by simpa using h.buffer) (by simpa using h.counts_agree (.inl hrest.noCommand))

end

/-! ### The obligations about steps -/

/-- Settles O47, by the four cases of a step. -/
theorem everyStepKeepsTheStateLegal : Obligations.EveryStepKeepsTheStateLegal := by
  intro s t h hstep
  obtain ⟨rest, -, hreset⟩ | ⟨-, hmid, hrun⟩ | ⟨-, hmid, -, hcontrol⟩ | ⟨-, -, hready, hatRest⟩ := step_cases s
  · cases hreset.symm.trans hstep
    exact reinit_settle_inv h.buffer
  · exact runSequencer_keeps_inv h.tick (by simpa using hmid) (hrun.symm.trans hstep)
  · cases hcontrol.symm.trans hstep
    exact commandControl_keeps_inv h.tick (by simpa using hmid)
  · exact stepAtRest_keeps_inv h (h.atRest hready) (hatRest.symm.trans hstep)

/-- Settles O8: of the four cases of a step only that of the sequencer has a micro-operation due. -/
theorem stepRunsTheMicroOperationSeqNames : Obligations.StepRunsTheMicroOperationSeqNames := by
  intro s i hmid hrst hdecode
  obtain ⟨rest, hacts, -⟩ | ⟨-, -, hrun⟩ | ⟨-, hnot, -⟩ | ⟨-, hnot, -⟩ := step_cases s
  · exact absurd hacts (hrst rest)
  · exact hrun.trans (runSequencer_ok (tick s) i (by rwa [tick_seq]))
  · simp [hmid] at hnot
  · simp [hmid] at hnot

/-- R15, R36: the reset state is at rest. -/
theorem reset_atRest : State.reset.AtRest := ⟨rfl, rfl, rfl, rfl, rfl⟩

/-- Settles O46: the reset state is at rest with an empty buffer and both counts 0. -/
theorem resetStateIsLegal : Obligations.ResetStateIsLegal :=
  ⟨reset_atRest.inv rfl rfl, reset_atRest, ⟨rfl, rfl, rfl, rfl, rfl, rfl⟩, rfl⟩

end Sys2Proof.Machine
end

section
/-!
PROOFS. Absorbed messages (R26, R122, R123, R127): a compression of the buffer is Compress of its 64 bytes, an ABSORB appends
one byte to the persistent state, and a burst of them gives the whole blocks of the message and their rest.
-/

namespace Sys2Proof.Machine

/-! ### The compression is the function of R180 -/

/-- R32: the round counter advances with `seq`. -/
theorem seqRnd_add_one (q : SeqWord) : seqRnd (q + 1#8) = seqRnd q + 1#6 := by
  apply BitVec.eq_of_toNat_eq
  simp [seqRnd, BitVec.extractLsb'_toNat]

theorem runRounds_w (n k : Nat) {s : State} (hk : s.rnd = BitVec.ofNat 6 k) :
    (runRounds n s).w = ((List.range' k n).map (BitVec.ofNat 6)).foldl (roundFn s.pending.word) s.w := by
  induction n generalizing k s with
  | zero => rfl
  | succ n ih =>
    have hnext : (roundOp (mixOf (roundGroup s.rnd)) s.rnd s).rnd = BitVec.ofNat 6 (k + 1) := by
      rw [BitVec.ofNat_add, ← hk]
      exact seqRnd_add_one s.seq
    rw [runRounds_succ, ih (k + 1) hnext, List.range'_succ, List.map_cons, List.foldl_cons, ← hk]
    rfl

/-- R180: the 64 rounds from round 0 on. -/
theorem runRounds_64_w {s : State} (hseq : s.seq = 0x80#8) :
    (runRounds 64 s).w = roundsFn s.pending.word s.w := by
  rw [runRounds_w 64 0 (by rw [State.rnd, hseq]; rfl), ← List.range_eq_range']
  rfl

/-- R95: every message index names one of the sixteen words. -/
theorem messageIndex_lt : ∀ i : RoundIndex, messageIndex i < 16 := by decide

/-- The rounds read the sixteen message words only. -/
theorem roundsFn_congr {f g : Nat → Word} (h : ∀ k, k < 16 → f k = g k) (w : Quad) : roundsFn f w = roundsFn g w := by
  have hround : roundFn f = roundFn g := by
    funext w i
    rw [roundFn, roundFn, h _ (messageIndex_lt i)]
  rw [roundsFn, roundsFn, hround]

/-- R180: the compression of the buffer is Compress of its 64 bytes. -/
theorem compress_h (s : State) : (compress s).h = compressBlock (s.pending.bytes 64) s.h := by
  have hframe := runRounds_frame 64 (seedOp (idleOp { s with blockReady := true }))
  have hrounds := runRounds_64_w (s := seedOp (idleOp { s with blockReady := true })) rfl
  rw [compress, feedfwdOp_h, hrounds, congrArg State.h hframe]
  exact congrArg (addQuad s.h) (roundsFn_congr (fun g hg => Memory.word_eq_blockWord s.pending g hg) s.h)

/-! ### PutByte and ABSORB on the persistent state (R121 to R123) -/

/-- R122, R123 on the persistent state: the byte is appended, and a full block is compressed away. -/
def HashState.put (v : Byte) (p : HashState) : HashState :=
  if (p.content ++ [v]).length = 64 then { p with h := compressBlock (p.content ++ [v]) p.h, content := [] }
  else { p with content := p.content ++ [v] }

/-- R121 on the persistent state: the byte is counted and put. -/
def HashState.absorb (v : Byte) (p : HashState) : HashState :=
  HashState.put v { p with totalLength := p.totalLength + 1#64 }

@[simp] theorem State.hashState_content_length (s : State) : s.hashState.content.length = s.pendingLen.toNat :=
  Memory.bytes_length _ _

theorem putByte_hashState (v : Byte) {s : State} (hbuf : s.pending.wf = true) :
    (putByte v s).hashState = s.hashState.put v := by
  have happend : (s.pending.write s.pendingLen.toNat v).bytes (s.pendingLen.toNat + 1) = s.hashState.content ++ [v] :=
    Memory.bytes_write_end s.pending s.pendingLen.toNat v hbuf
  cases hfull : s.fillsBlock with
  | false =>
    have hlen : s.pendingLen ≠ 63#6 := by simpa [State.fillsBlock] using hfull
    have hnext : (s.pendingLen + 1#6).toNat = s.pendingLen.toNat + 1 := by bv_omega
    have hnot : ¬ (s.hashState.content ++ [v]).length = 64 := by rw [← happend, Memory.bytes_length]; bv_omega
    rw [putByte_below v s hfull, HashState.put, if_neg hnot, ← happend, ← hnext]
    rfl
  | true =>
    have hnext : s.pendingLen.toNat + 1 = 64 := by
      rw [show s.pendingLen = 63#6 by simpa [State.fillsBlock] using hfull]; rfl
    have hblock : (s.hashState.content ++ [v]).length = 64 := by rw [← happend, Memory.bytes_length, hnext]
    have hacc : (compress (storeByte v s)).h = compressBlock (s.hashState.content ++ [v]) s.h := by
      rw [compress_h, ← happend, hnext]; rfl
    rw [putByte_full v s hfull, HashState.put, if_pos hblock]
    simp only [State.hashState, hacc, compress_totalLength]
    rfl

/-- R121: an ABSORB appends its byte to the persistent state. -/
theorem exec_absorb_hashState (v : Byte) {s : State} (hbuf : s.pending.wf = true) :
    ∃ t, exec (.absorb v) s = .next t ∧ t.hashState = s.hashState.absorb v ∧ t.pending.wf = true :=
  ⟨_, rfl, putByte_hashState v (s := { s with totalLength := add64 s.totalLength 1#64 }) hbuf,
    putByte_keeps_wf v _ hbuf⟩

/-! ### Whole blocks and their rest (R127, R128) -/

theorem foldBlocks_zero (bs : List Byte) (h : Quad) : foldBlocks 0 bs h = h := rfl

/-- R127, one block. As an equation of functions it holds by `rfl`; applied to bytes and accumulators, `rfl` would make the
kernel evaluate the compression. -/
theorem foldBlocks_succ_fun (n : Nat) :
    foldBlocks (n + 1) = fun bs h => foldBlocks n (bs.drop 64) (compressBlock (bs.take 64) h) := rfl

theorem foldBlocks_succ (n : Nat) (bs : List Byte) (h : Quad) :
    foldBlocks (n + 1) bs h = foldBlocks n (bs.drop 64) (compressBlock (bs.take 64) h) :=
  congrFun₂ (foldBlocks_succ_fun n) bs h

/-- A whole block at the front of the bytes is compressed first. -/
theorem foldBlocks_append_block {blk : List Byte} (hblk : blk.length = 64) (n : Nat) (bs : List Byte) (h : Quad) :
    foldBlocks (n + 1) (blk ++ bs) h = foldBlocks n bs (compressBlock blk h) := by
  rw [foldBlocks_succ, List.drop_left' hblk, List.take_left' hblk]

/-- R130 without the count: the whole blocks of content and bytes are compressed in order, and the rest is kept. -/
def HashState.putAll (bs : List Byte) (p : HashState) : HashState :=
  let all := p.content ++ bs
  { p with h := foldBlocks (all.length / 64) all p.h, content := all.drop (64 * (all.length / 64)) }

/-- R130: the bytes are counted and put. -/
def HashState.absorbAll (bs : List Byte) (p : HashState) : HashState :=
  HashState.putAll bs { p with totalLength := p.totalLength + BitVec.ofNat 64 bs.length }

theorem HashState.absorbAll_nil {p : HashState} (hp : p.content.length < 64) : p.absorbAll [] = p := by
  simp [HashState.absorbAll, HashState.putAll, Nat.div_eq_of_lt hp, foldBlocks_zero]

/-- Putting the first byte alone and then the others gives what all of them give at once. -/
theorem HashState.putAll_cons (v : Byte) (bs : List Byte) (p : HashState) :
    p.putAll (v :: bs) = (p.put v).putAll bs := by
  have hall : p.content ++ v :: bs = (p.content ++ [v]) ++ bs := by simp
  unfold HashState.put
  split
  · rename_i hfull
    have hblocks : ((p.content ++ [v]) ++ bs).length / 64 = bs.length / 64 + 1 := by
      rw [List.length_append, hfull]; omega
    have hrest : ((p.content ++ [v]) ++ bs).drop (64 * (bs.length / 64 + 1)) = bs.drop (64 * (bs.length / 64)) := by
      rw [Nat.mul_add_one, Nat.add_comm, ← List.drop_drop, List.drop_left' hfull]
    simp only [HashState.putAll, hall, hblocks, hrest, foldBlocks_append_block hfull, List.nil_append]
  · simp only [HashState.putAll, hall]

/-- PutByte neither reads nor writes the count (R122). -/
theorem HashState.put_withTotalLength (v : Byte) (p : HashState) (n : Length) :
    HashState.put v { p with totalLength := n } = { p.put v with totalLength := n } := by
  unfold HashState.put
  split <;> rfl

theorem HashState.absorbAll_cons (v : Byte) (bs : List Byte) (p : HashState) :
    p.absorbAll (v :: bs) = (p.absorb v).absorbAll bs := by
  have hcount : p.totalLength + BitVec.ofNat 64 (bs.length + 1) = p.totalLength + 1#64 + BitVec.ofNat 64 bs.length := by
    rw [BitVec.add_assoc, BitVec.ofNat_add, BitVec.add_comm (1#64)]
  simp only [HashState.absorbAll, HashState.absorb, HashState.putAll_cons, HashState.put_withTotalLength, List.length_cons,
    hcount]

/-- R130, R131: what a burst of ABSORB commands leaves of any persistent state. -/
theorem execAll_burst (bs : List Byte) {s : State} (hbuf : s.pending.wf = true) :
    ∃ t, execAll (burst bs) s = .next t ∧ t.hashState = s.hashState.absorbAll bs ∧ t.pending.wf = true := by
  induction bs generalizing s with
  | nil =>
    have hfill : s.hashState.content.length < 64 := by
      rw [State.hashState_content_length]
      exact s.pendingLen.isLt
    exact ⟨s, rfl, (HashState.absorbAll_nil hfill).symm, hbuf⟩
  | cons v rest ih =>
    obtain ⟨u, hexec, hstate, hwf⟩ := exec_absorb_hashState v hbuf
    obtain ⟨t, hrun, hrest, hwf'⟩ := ih hwf
    refine ⟨t, ?_, by rw [hrest, hstate, HashState.absorbAll_cons], hwf'⟩
    simpa only [burst, List.map_cons, execAll, hexec] using hrun

/-- R163: a message absorbed from the initial state. -/
theorem HashState.absorbAll_initial (m : List Byte) :
    HashState.initial.absorbAll m =
      ⟨foldBlocks (m.length / 64) m initQuad, BitVec.ofNat 64 m.length, m.drop (64 * (m.length / 64))⟩ := by
  simp [HashState.absorbAll, HashState.putAll, HashState.initial]

/-- Settles O42: `execAll_burst` from the initial state; the rest of the message has `m.length % 64` bytes. -/
theorem absorbedMessageDeterminesThePersistentState : Obligations.AbsorbedMessageDeterminesThePersistentState := by
  intro m s hbuf hinitial
  obtain ⟨t, hrun, hstate, -⟩ := execAll_burst m hbuf
  rw [hinitial, HashState.absorbAll_initial] at hstate
  refine ⟨t, hrun, hstate, ?_⟩
  have hfill : t.pendingLen.toNat = m.length % 64 := by
    rw [← State.hashState_content_length, hstate, List.length_drop]
    omega
  have htotal : t.totalLength = BitVec.ofNat 64 m.length := congrArg HashState.totalLength hstate
  apply BitVec.eq_of_toNat_eq
  rw [hfill, htotal, BitVec.toNat_setWidth, BitVec.toNat_ofNat]
  omega

end Sys2Proof.Machine
end

section
/-!
PROOFS. The encoding (30_encoding.md): each row of R83 and R90 as a condition on a word's fields, decode and encode as
inverses of each other, and the reserved command words of R88.
-/

namespace Sys2Proof

/-! ### The rows of the tables -/

/-- Two rows that select one word agree on the bits both fix. -/
theorem OpcodeRow.selects_agree {n : Nat} {r r' : OpcodeRow n} {w : BitVec n} (h : r.selects w = true)
    (h' : r'.selects w = true) : r.pattern &&& r'.mask = r'.pattern &&& r.mask := by
  rw [← beq_iff_eq.mp h, ← beq_iff_eq.mp h', BitVec.and_assoc, BitVec.and_assoc, BitVec.and_comm r.mask]

/-- In a list of rows of which any two differ on a bit both fix, at most one selects a word. -/
theorem selecting_length_le_one {n : Nat} {rows : List (OpcodeRow n)}
    (h : rows.Pairwise fun r r' => r.pattern &&& r'.mask ≠ r'.pattern &&& r.mask) (w : BitVec n) :
    (rows.filter fun r => r.selects w).length ≤ 1 := by
  induction rows with
  | nil => simp
  | cons r rows ih =>
    obtain ⟨hfirst, hrest⟩ := List.pairwise_cons.mp h
    by_cases hsel : r.selects w = true
    · have hnone : rows.filter (fun r => r.selects w) = [] :=
        List.filter_eq_nil_iff.mpr fun r' hmem hsel' => hfirst r' hmem (OpcodeRow.selects_agree hsel hsel')
      simp [hsel, hnone]
    · simpa [hsel] using ih hrest

/-- Settles O4: any two rows of a table differ on a bit both fix. -/
theorem noWordIsSelectedByTwoRows : Obligations.NoWordIsSelectedByTwoRows :=
  ⟨selecting_length_le_one (rows := commandRows) (by decide),
    selecting_length_le_one (rows := sequencerRows) (by decide)⟩

/-! ### The command port (R83) -/

/-- R80: a command word is its operation code above its data. -/
theorem cmdOp_append_cmdData (w : CmdWord) : cmdOp w ++ cmdData w = w :=
  BitVec.extractLsb'_append_extractLsb'

@[simp] theorem cmdOp_append (op : BitVec 2) (v : Byte) : cmdOp (op ++ v) = op := BitVec.extractLsb'_append_eq_left

@[simp] theorem cmdData_append (op : BitVec 2) (v : Byte) : cmdData (op ++ v) = v := BitVec.extractLsb'_append_eq_right

theorem cmdWord_eq_append_iff {w : CmdWord} {op : BitVec 2} {v : Byte} :
    w = op ++ v ↔ cmdOp w = op ∧ cmdData w = v := by
  constructor
  · rintro rfl
    exact ⟨cmdOp_append op v, cmdData_append op v⟩
  · rintro ⟨rfl, rfl⟩
    exact (cmdOp_append_cmdData w).symm

/-- R83: the row of ABSORB fixes the operation code and no bit of the data. -/
theorem rowAbsorb_selects_iff (w : CmdWord) : rowAbsorb.selects w = true ↔ cmdOp w = 0b01#2 := by
  have hmask : w &&& rowAbsorb.mask = cmdOp w ++ 0#8 := by
    calc w &&& rowAbsorb.mask = (cmdOp w ++ cmdData w) &&& (BitVec.allOnes 2 ++ 0#8) := by
          rw [cmdOp_append_cmdData]; rfl
      _ = cmdOp w ++ 0#8 := by rw [BitVec.and_append, BitVec.and_allOnes, BitVec.and_zero]
  rw [OpcodeRow.selects, hmask, beq_iff_eq]
  exact BitVec.append_left_inj (s₂ := 0b01#2) 0#8

/-- A row that fixes every bit selects its pattern alone. -/
theorem OpcodeRow.selects_iff_of_allOnes {n : Nat} {r : OpcodeRow n} (h : r.mask = BitVec.allOnes n) (w : BitVec n) :
    r.selects w = true ↔ w = r.pattern := by
  rw [OpcodeRow.selects, h, BitVec.and_allOnes, beq_iff_eq]

/-- R83, R88: the decoder of the command port by the word's fields. -/
theorem decodeCmd_eq (w : CmdWord) :
    decodeCmd w = if cmdOp w = 0b01#2 then .ok (.absorb (cmdData w)) else if w = 0x200#10 then .ok .finalize
      else if w = 0x300#10 then .ok .reset else .error (.reservedCommand w) := by
  simp only [decodeCmd, rowAbsorb_selects_iff, OpcodeRow.selects_iff_of_allOnes (r := rowFinalize) rfl,
    OpcodeRow.selects_iff_of_allOnes (r := rowReset) rfl]
  rfl

/-! ### The sequencer (R90) -/

/-- R90: the words of the rounds are 0x80 to 0xBF. -/
theorem roundWord_bounds (i : RoundIndex) : 0x80 ≤ (0b10#2 ++ i).toNat ∧ (0b10#2 ++ i).toNat < 0xC0 := by
  have hlt := i.isLt
  have hnat : (0b10#2 ++ i).toNat = 0x80 + i.toNat := by
    rw [BitVec.toNat_append, ← Nat.shiftLeft_add_eq_or_of_lt hlt]
    rfl
  omega

/-- R32, R90: a word of a round is 0b10 above its round index. -/
theorem append_seqRnd {q : SeqWord} (hlo : 0x80 ≤ q.toNat) (hhi : q.toNat < 0xC0) : 0b10#2 ++ seqRnd q = q := by
  apply BitVec.eq_of_toNat_eq
  rw [BitVec.toNat_append, ← Nat.shiftLeft_add_eq_or_of_lt (seqRnd q).isLt, seqRnd, BitVec.extractLsb'_toNat,
    Nat.shiftRight_zero]
  have hphase : (0b10#2).toNat <<< 6 = 0x80 := rfl
  omega

theorem decodeSeq_roundWord (i : RoundIndex) : decodeSeq (0b10#2 ++ i) = .ok (Machine.roundInstr i) := by
  obtain ⟨hlo, hhi⟩ := roundWord_bounds i
  rw [Machine.decodeSeq_round _ hlo hhi, seqRnd, BitVec.extractLsb'_append_eq_right]

/-- R28, R90: a word that is no legal value of `seq` is reserved. -/
theorem decodeSeq_illegal : ∀ q : SeqWord, Machine.legalSeq q = false → decodeSeq q = .error (.reservedSequencer q) := by
  decide

/-! ### Decode and encode are inverses -/

/-- R91: a well-formed round micro-operation is the one of its index's group. -/
theorem roundInstr_of_wellFormed {r : RoundIndex} {i : Instr} (hi : i ∈ [.roundF r, .roundG r, .roundH r, .roundI r])
    (hwf : i.wellFormed = true) : Machine.roundInstr r = i := by
  simp only [List.mem_cons, List.not_mem_nil, or_false] at hi
  obtain rfl | rfl | rfl | rfl := hi <;> simp_all [Machine.roundInstr, roundGroup, Instr.wellFormed]

theorem roundInstr_wellFormed_encode (r : RoundIndex) :
    (Machine.roundInstr r).wellFormed = true ∧ encode (Machine.roundInstr r) = .seq (0b10#2 ++ r) := by
  have hgroup : ∀ g : BitVec 2, g = 0#2 ∨ g = 1#2 ∨ g = 2#2 ∨ g = 3#2 := by decide
  unfold Machine.roundInstr
  obtain hg | hg | hg | hg := hgroup (roundGroup r) <;> rw [hg] <;> exact ⟨beq_iff_eq.mpr hg, rfl⟩

theorem decode_roundWord {r : RoundIndex} {i : Instr} (hi : i ∈ [.roundF r, .roundG r, .roundH r, .roundI r])
    (hwf : i.wellFormed = true) : decode (.seq (0b10#2 ++ r)) = .ok i := by
  rw [← roundInstr_of_wellFormed hi hwf]
  exact decodeSeq_roundWord r

theorem decodeCmd_absorb (v : Byte) : decodeCmd (0b01#2 ++ v) = .ok (.absorb v) := by
  rw [decodeCmd_eq, cmdOp_append, if_pos rfl, cmdData_append]

/-- Settles O2: the words of ABSORB and of the rounds by their fields, the five others as they stand. -/
theorem decodingAnEncodedInstructionGivesItBack : Obligations.DecodingAnEncodedInstructionGivesItBack := by
  intro i hwf
  cases i with
  | absorb v => exact decodeCmd_absorb v
  | finalize => rfl
  | reset => rfl
  | idle => rfl
  | seed => rfl
  | roundF r => exact decode_roundWord (by simp) hwf
  | roundG r => exact decode_roundWord (by simp) hwf
  | roundH r => exact decode_roundWord (by simp) hwf
  | roundI r => exact decode_roundWord (by simp) hwf
  | feedfwd => rfl

/-- R83, R90: to decode a word it is enough to see whose encoding it is. -/
theorem decode_of_encode {c : Code} {i : Instr} (hwf : i.wellFormed = true) (h : encode i = c) : decode c = .ok i :=
  h ▸ decodingAnEncodedInstructionGivesItBack i hwf

/-- Settles O1: each word is the encoding of its instruction. -/
theorem specWordsDecodeAsTheTableSays : Obligations.SpecWordsDecodeAsTheTableSays :=
  ⟨decode_of_encode rfl rfl, decode_of_encode rfl rfl, decode_of_encode rfl rfl, decode_of_encode rfl rfl,
    decode_of_encode rfl rfl, decode_of_encode rfl rfl, decode_of_encode rfl rfl, decode_of_encode rfl rfl,
    decode_of_encode rfl rfl, decode_of_encode rfl rfl, decode_of_encode rfl rfl⟩

theorem decodeCmd_sound {w : CmdWord} {i : Instr} (h : decodeCmd w = .ok i) :
    i.wellFormed = true ∧ encode i = .cmd w := by
  rw [decodeCmd_eq] at h
  split_ifs at h with hop hfin hres <;> cases h
  · exact ⟨rfl, congrArg Code.cmd (cmdWord_eq_append_iff.mpr ⟨hop, rfl⟩).symm⟩
  · exact ⟨rfl, congrArg Code.cmd hfin.symm⟩
  · exact ⟨rfl, congrArg Code.cmd hres.symm⟩

theorem decodeSeq_sound {q : SeqWord} {i : Instr} (h : decodeSeq q = .ok i) :
    i.wellFormed = true ∧ encode i = .seq q := by
  have hlegal : Machine.legalSeq q = true := by
    by_contra hnot
    rw [decodeSeq_illegal q (by simpa using hnot)] at h
    cases h
  obtain rfl | rfl | ⟨hlo, hhi⟩ | rfl := Machine.legalSeq_cases hlegal
  · cases h; exact ⟨rfl, rfl⟩
  · cases h; exact ⟨rfl, rfl⟩
  · rw [Machine.decodeSeq_round q hlo hhi] at h
    cases h
    simpa only [append_seqRnd hlo hhi] using roundInstr_wellFormed_encode (seqRnd q)
  · cases h; exact ⟨rfl, rfl⟩

/-- Settles O3: the decoder of each format is sound. -/
theorem encodingADecodedWordGivesItBack : Obligations.EncodingADecodedWordGivesItBack := by
  intro c i h
  cases c with
  | cmd w => exact decodeCmd_sound h
  | seq q => exact decodeSeq_sound h

/-! ### The reserved command words (R88) -/

/-- A command word decodes to a command exactly when it is the command's word. -/
theorem decode_cmd_eq_ok_iff {w v : CmdWord} {i : Instr} (hwf : i.wellFormed = true) (hv : encode i = .cmd v) :
    decode (.cmd w) = .ok i ↔ w = v := by
  constructor
  · intro h
    exact Code.cmd.inj ((encodingADecodedWordGivesItBack _ i h).2.symm.trans hv)
  · rintro rfl
    exact decode_of_encode hwf hv

/-- R88: a command word is reserved when it is that of no command. -/
theorem decodeCmd_reserved_iff (w : CmdWord) :
    decodeCmd w = .error (.reservedCommand w) ↔ cmdOp w ≠ 0b01#2 ∧ w ≠ 0x200#10 ∧ w ≠ 0x300#10 := by
  rw [decodeCmd_eq]
  split_ifs <;> simp_all

/-- R88: the reserved command words by their fields. -/
theorem decodeCmd_reserved_iff_fields (w : CmdWord) :
    decodeCmd w = .error (.reservedCommand w) ↔
      (cmdOp w = 0b00#2 ∨ (cmdOp w = 0b10#2 ∧ cmdData w ≠ 0x00#8) ∨ (cmdOp w = 0b11#2 ∧ cmdData w ≠ 0x00#8)) := by
  have hfin : w = 0x200#10 ↔ cmdOp w = 0b10#2 ∧ cmdData w = 0x00#8 :=
    cmdWord_eq_append_iff (op := 0b10#2) (v := 0x00#8)
  have hres : w = 0x300#10 ↔ cmdOp w = 0b11#2 ∧ cmdData w = 0x00#8 :=
    cmdWord_eq_append_iff (op := 0b11#2) (v := 0x00#8)
  rw [decodeCmd_reserved_iff, Ne, Ne, Ne, hfin, hres]
  have hop : ∀ op : BitVec 2, op = 0b00#2 ∨ op = 0b01#2 ∨ op = 0b10#2 ∨ op = 0b11#2 := by decide
  obtain h | h | h | h := hop (cmdOp w) <;> simp [h]

/-- R88: 0x000 to 0x0FF, 0x201 to 0x2FF and 0x301 to 0x3FF. -/
theorem reserved_count :
    ((List.range 1024).filter fun n =>
      decide (decode (.cmd (BitVec.ofNat 10 n)) = .error (.reservedCommand (BitVec.ofNat 10 n)))).length = 766 := by
  decide +kernel

end Sys2Proof

namespace Sys2Proof.Machine

/-- R88: a reserved word presented to an engine at rest is refused. -/
theorem acceptWord_reserved {w : CmdWord} {s : State} {e : DecodeError} (h : decode (.cmd w) = .error e) :
    acceptWord w s = .refused (.reservedCommandWord w) := by
  simp only [acceptWord, h]

/-- Settles O5: the fields of a word say which row selects it, and an engine at rest accepts or refuses what it is shown. -/
theorem reservedCommandWordsAreRefused : Obligations.ReservedCommandWordsAreRefused := by
  refine ⟨fun w => ⟨?_, fun hop => ⟨cmdData w, ?_⟩⟩, fun w => decode_cmd_eq_ok_iff rfl rfl,
    fun w => decode_cmd_eq_ok_iff rfl rfl, decodeCmd_reserved_iff_fields,
    reserved_count, fun w rest s hrest hacts hreserved => ?_⟩
  · rintro ⟨v, h⟩
    exact (cmdWord_eq_append_iff.mp ((decode_cmd_eq_ok_iff rfl rfl).mp h)).1
  · exact (decode_cmd_eq_ok_iff rfl rfl).mpr (cmdWord_eq_append_iff.mpr ⟨hop, rfl⟩)
  · exact (step_atRest_word hrest hacts).trans (acceptWord_reserved hreserved)

end Sys2Proof.Machine
end

section
/-!
PROOFS. The ports (30_encoding.md): the response bus of R87, responses, where the next instruction stands, acceptance and
held words (R82, R86), what the host does during a command, and the selections of R90 and R95.
-/

namespace Sys2Proof.Machine

/-! ### The response bus (R87) -/

@[simp] theorem digestBus_nil : digestBus [] = 0#128 := rfl

@[simp] theorem digestBus_cons (b : Byte) (bs : List Byte) :
    digestBus (b :: bs) = digestBus bs <<< 8 ||| b.setWidth 128 := rfl

/-- A vector of whole bytes, put in front of other bytes, stands below them on the bus. -/
theorem digestBus_append_byte {m : Nat} (hi : BitVec m) (lo : Byte) {n : Nat} {bs : List Byte}
    (h : digestBus (bytesLe hi n ++ bs) = digestBus bs <<< (8 * n) ||| hi.setWidth 128) :
    digestBus (bytesLe (hi ++ lo) (n + 1) ++ bs) = digestBus bs <<< (8 * (n + 1)) ||| (hi ++ lo).setWidth 128 := by
  rw [bytesLe_append_byte, List.cons_append, digestBus_cons, h, BitVec.shiftLeft_or_distrib, ← BitVec.shiftLeft_add,
    BitVec.setWidth_append_eq_shiftLeft_setWidth_or, BitVec.or_assoc]
  rfl

/-- R87: the bytes of a word in front of other bytes stand on the bus's low 32 bits. -/
theorem digestBus_word (v : Word) (bs : List Byte) :
    digestBus (bytesLe v 4 ++ bs) = digestBus bs <<< 32 ||| v.setWidth 128 := by
  rw [← le32_extractLsb' v]
  refine digestBus_append_byte _ _ (digestBus_append_byte _ _ (digestBus_append_byte _ _ ?_))
  simp [bytesLe]

/-- R87: the four words, D on top. -/
theorem digestBus_digestBytes (q : Quad) : digestBus (digestBytes q) = q.d ++ q.c ++ q.b ++ q.a := by
  have hd := digestBus_word q.d []
  rw [List.append_nil] at hd
  rw [digestBytes, List.append_assoc, List.append_assoc, digestBus_word, digestBus_word, digestBus_word, hd]
  rw [← BitVec.setWidth_eq (q.d ++ q.c ++ q.b ++ q.a), BitVec.setWidth_append_append_append_eq_shiftLeft_setWidth_or]
  simp [BitVec.shiftLeft_or_distrib, ← BitVec.shiftLeft_add]

/-- A byte of the word at the bottom of a vector. -/
theorem extractLsb'_append_word_low {m k : Nat} (hi : BitVec m) (lo : Word) (hk : k < 4) :
    (hi ++ lo).extractLsb' (8 * k) 8 = lo.extractLsb' (8 * k) 8 :=
  BitVec.extractLsb'_append_eq_of_add_le (by omega)

/-- Above the word at the bottom of a vector, its bytes count from the fourth on. -/
theorem extractLsb'_append_word_high {m : Nat} (hi : BitVec m) (lo : Word) (k : Nat) :
    (hi ++ lo).extractLsb' (8 * (4 + k)) 8 = hi.extractLsb' (8 * k) 8 := by
  have hstart : 8 * (4 + k) - 32 = 8 * k := by omega
  rw [BitVec.extractLsb'_append_eq_of_le (by omega), hstart]

/-- Settles O36: the bus from the bytes, and its bytes word by word from the bottom. -/
theorem responseBusIsDCBA : Obligations.ResponseBusIsDCBA := by
  intro q
  refine ⟨digestBus_digestBytes q, fun k hk => ?_⟩
  have h8 : 8 + k = 4 + (4 + k) := by omega
  have h12 : 12 + k = 4 + (4 + (4 + k)) := by omega
  simp only [busByte, digestBus_digestBytes, h8, h12]
  refine ⟨extractLsb'_append_word_low _ _ hk, ?_, ?_, ?_⟩
  · rw [extractLsb'_append_word_high, extractLsb'_append_word_low _ _ hk]
  · rw [extractLsb'_append_word_high, extractLsb'_append_word_high, extractLsb'_append_word_low _ _ hk]
  · rw [extractLsb'_append_word_high, extractLsb'_append_word_high, extractLsb'_append_word_high]

/-! ### Responses (R86) -/

/-- Settles O20: ABSORB by the frame of PutByte; no other instruction but FINALIZE writes the list. -/
theorem onlyFinalizeResponds : Obligations.OnlyFinalizeResponds := by
  intro i s t hexec hfin
  cases i with
  | absorb v =>
    cases hexec
    obtain ⟨-, -, -, -, -, -, -, hresponses, -⟩ := putByte_frame v { s with totalLength := add64 s.totalLength 1#64 }
    exact hresponses
  | finalize => exact absurd rfl hfin
  | reset => cases hexec; rfl
  | idle => cases hexec; rfl
  | seed => cases hexec; rfl
  | roundF r => cases hexec; rfl
  | roundG r => cases hexec; rfl
  | roundH r => cases hexec; rfl
  | roundI r => cases hexec; rfl
  | feedfwd => cases hexec; rfl

/-! ### Where the next instruction stands (R82, R90) -/

/-- R82: the presented word is accepted and run whole. -/
theorem step_presentCommand {w : CmdWord} {i : Instr} (s : State) (h : decode (.cmd w) = .ok i) :
    step (presentCommand w s) = exec i { presentCommand w s with hostActs := s.hostActs } := by
  have hstep : step (presentCommand w s) = acceptWord w { presentCommand w s with hostActs := s.hostActs } := rfl
  exact hstep.trans (acceptWord_command h rfl)

/-- R33, R90: the micro-operation placed in `seq` runs, IDLE on an engine at rest. -/
theorem step_presentMicro {q : SeqWord} {i : Instr} (s : State) (h : decode (.seq q) = .ok i) :
    step (presentMicro q s) = exec i { presentMicro q s with hostActs := s.hostActs } := by
  have htick : tick (presentMicro q s) = { presentMicro q s with hostActs := s.hostActs } := tick_pause _ _ rfl
  rw [← htick]
  cases hmid : (presentMicro q s).midCompression with
  | true => exact stepRunsTheMicroOperationSeqNames _ i hmid (fun _ => nofun) h
  | false =>
    obtain rfl : q = 0x00#8 := (State.midCompression_eq_false_iff.mp hmid).1
    cases h
    have hrunning : step (presentMicro 0x00#8 s) = stepRunning (presentMicro 0x00#8 s) := rfl
    rw [hrunning, stepRunning, hmid]
    rfl

theorem decodeTableWord_cases {nbits w : Nat} {i : Instr} (h : decodeTableWord nbits w = some i) :
    ∃ c, tableCode nbits w = some c ∧ decode c = .ok i := by
  unfold decodeTableWord at h
  split at h
  · cases h
  · rename_i c htable
    split at h <;> cases h
    exact ⟨c, htable, ‹_›⟩

/-- Settles O6: a command word is placed on the command port, a sequencer word in `seq`. -/
theorem fetchWordRunsTheTableInstruction : Obligations.FetchWordRunsTheTableInstruction := by
  intro s nbits w i hword
  obtain ⟨c, htable, hdecode⟩ := decodeTableWord_cases hword
  rw [State.withFetchWord, htable]
  cases c with
  | cmd c => exact ⟨_, step_presentCommand s hdecode, rfl, rfl, rfl, rfl, rfl, rfl, rfl, rfl⟩
  | seq q => exact ⟨_, step_presentMicro s hdecode, rfl, rfl, rfl, rfl, rfl, rfl, rfl, rfl⟩

/-! ### Acceptance at the micro-operation level (R82) -/

/-- R151: three places to the left are a factor of eight. -/
theorem mul8_64_eq_mul_eight (x : Length) : mul8_64 x = x * 8#64 := BitVec.shiftLeft_eq_mul_twoPow x 3

/-- Settles O12: the acceptance of each command's word, begun at the micro-operation level. -/
theorem acceptanceLowersReady : Obligations.AcceptanceLowersReady := by
  intro s rest hrest hdetail
  have haccept {w : CmdWord} {i : Instr} (hacts : s.hostActs = .word w :: rest) (hdecode : decode (.cmd w) = .ok i) :
      step s = startCommand i { s with hostActs := rest } :=
    (stepRunsTheAcceptedCommand s w rest i hrest hacts hdecode).2 hdetail
  refine ⟨fun hacts => ?_, fun v hacts => haccept hacts (decodeCmd_absorb v)⟩
  rw [haccept hacts (decode_of_encode (i := .finalize) rfl rfl), ← mul8_64_eq_mul_eight]
  rfl

/-! ### A command in progress and its host (R82, R263) -/

/-- R28, R90: a legal value of `seq` names a micro-operation, which completes. -/
theorem runSequencer_completes {s : State} (h : legalSeq s.seq = true) : ∃ t, runSequencer s = .next t := by
  obtain hq | hq | ⟨hlo, hhi⟩ | hq := legalSeq_cases h
  · exact ⟨_, runSequencer_idle hq⟩
  · exact ⟨_, runSequencer_seed hq⟩
  · exact ⟨_, runSequencer_round hlo hhi⟩
  · exact ⟨_, runSequencer_feedfwd hq⟩

/-- A legal engine with a command in progress is never stopped. -/
theorem State.Inv.step_busy_completes {s : State} (h : s.Inv) (hbusy : s.cmdReady = false) : ∃ t, step s = .next t := by
  obtain ⟨rest, -, hstep⟩ | ⟨-, -, hstep⟩ | ⟨-, -, -, hstep⟩ | ⟨-, -, hready, -⟩ := step_cases s
  · exact ⟨_, hstep⟩
  · rw [hstep]
    exact runSequencer_completes h.tick.seqLegal
  · exact ⟨_, hstep⟩
  · simp [hbusy] at hready

/-- Settles O11: `step_busy_hostActs` from the quiet host to the one that presents the word, which a step holds. -/
theorem aWordPresentedToABusyEngineIsHeld : Obligations.AWordPresentedToABusyEngineIsHeld := by
  intro s w rest hinv hbusy hacts
  obtain ⟨u, hquiet⟩ := (hinv.withHostActs []).step_busy_completes hbusy
  obtain ⟨hheld, hnone⟩ :=
    step_busy_hostActs (s := { s with hostActs := [] }) s.hostActs hbusy rfl (by simp [hacts]) hquiet
  have htick : (tick s).hostActs = s.hostActs := by rw [tick_word s w rest hacts]
  refine ⟨{ u with hostActs := s.hostActs }, ?_, rfl, ?_⟩
  · rw [← htick]
    exact hheld
  · rw [hquiet, ← hnone]

theorem runSteps_succ {n : Nat} {s u : State} (h : step s = .next u) : runSteps (n + 1) s = runSteps n u := by
  rw [runSteps, h]

theorem runSteps_succ_cases {n : Nat} {s t : State} (h : runSteps (n + 1) s = .next t) :
    ∃ u, step s = .next u ∧ runSteps n u = .next t := by
  rw [runSteps] at h
  split at h
  · rename_i u hstep
    exact ⟨u, hstep, h⟩
  · cases h
  · cases h

section
variable (p : Nat) {rest : List HostAct} (hrest : rest = [] ∨ ∃ w r, rest = HostAct.word w :: r)
include hrest

theorem pauses_ne_rst (r : List HostAct) : List.replicate p .pause ++ rest ≠ .rst :: r := by
  cases p with
  | zero => obtain rfl | ⟨w, acts, rfl⟩ := hrest <;> simp
  | succ p => simp [List.replicate_succ]

/-- One step lets one of the pauses pass; with none left, a host that has nothing to do or holds a word stays as it is. -/
theorem tick_pauses_hostActs {s : State} (hacts : s.hostActs = List.replicate p .pause ++ rest) :
    (tick s).hostActs = List.replicate (p - 1) .pause ++ rest := by
  cases p with
  | zero =>
    obtain rfl | ⟨w, r, rfl⟩ := hrest
    · rw [tick_quiet s hacts, hacts]
    · rw [tick_word s w r hacts, hacts]
  | succ p =>
    rw [tick_pause s _ hacts]
    simp

end

/-- Settles O53, by induction on the number of steps: each is one step of a busy engine. -/
theorem furtherHostActsWaitForTheCommand : Obligations.FurtherHostActsWaitForTheCommand := by
  intro m p s t rest hquiet hrest hbusy hrun
  induction m generalizing p s with
  | zero =>
    cases hrun
    rfl
  | succ m ih =>
    obtain ⟨_, hzero, hready⟩ := hbusy 0 (by omega)
    cases hzero
    obtain ⟨u, hstep, hrun⟩ := runSteps_succ_cases hrun
    obtain ⟨hstep', hquiet'⟩ := step_busy_hostActs _ hready hquiet (pauses_ne_rst p hrest) hstep
    have hbusy' : ∀ k, k < m → ∃ v, runSteps k u = .next v ∧ v.cmdReady = false := by
      intro k hk
      rw [← runSteps_succ hstep]
      exact hbusy (k + 1) (by omega)
    have hleft : p - (m + 1) = p - 1 - m := by omega
    rw [runSteps_succ hstep', tick_pauses_hostActs p hrest rfl, hleft]
    exact ih (p - 1) u hquiet' hbusy' hrun

/-! ### Selections (R90, R95) -/

/-- Settles O25: the two values of the trigger. -/
theorem idleSelectsSeedWhenABlockCompletes : Obligations.IdleSelectsSeedWhenABlockCompletes := by
  intro s
  have hidle : exec .idle s = .next (idleOp s) := rfl
  rw [hidle]
  refine ⟨fun hready => ?_, fun hready => ?_⟩ <;> simp [idleOp, hready]

/-- R91: the group of a round is its index divided by 16. -/
theorem roundGroup_toNat (i : RoundIndex) : (roundGroup i).toNat = i.toNat / 16 := by
  rw [roundGroup, BitVec.extractLsb'_toNat, Nat.shiftRight_eq_div_pow]
  omega

/-- Settles O34: the formulas by the group, the permutations by listing the sixteen indexes of each group. -/
theorem messageScheduleIsFourPermutations : Obligations.MessageScheduleIsFourPermutations := by
  refine ⟨fun i => ?_, by decide⟩
  have group {n : Nat} (hlo : 16 * n ≤ i.toNat) (hhi : i.toNat ≤ 16 * n + 15) : (roundGroup i).toNat = n := by
    rw [roundGroup_toNat]
    omega
  refine ⟨fun hhi => ?_, fun hlo hhi => ?_, fun hlo hhi => ?_, fun hlo => ?_⟩
  · simp only [messageIndex, group (n := 0) (by omega) hhi]
  · simp only [messageIndex, group (n := 1) hlo hhi]
  · simp only [messageIndex, group (n := 2) hlo hhi]
  · simp only [messageIndex, group (n := 3) hlo (by omega)]

end Sys2Proof.Machine
end

section
/-!
PROOFS. RESET, ABSORB and UPDATE (40_reset_update.md): what the two commands leave in every field, and the four stages of
UPDATE as two puts into the persistent state, so that UPDATE is its list form (R130), its burst (R131) and every splitting of
itself (R129).
-/

namespace Sys2Proof.Machine

/-! ### RESET and ABSORB -/

/-- Settles O14: the end of a command after the re-initialisation of R120, which keeps the cells and the responses. -/
theorem resetGivesTheInitialState : Obligations.ResetGivesTheInitialState := by
  intro s
  exact ⟨settle (reinit s), rfl, ⟨rfl, rfl, rfl, rfl, rfl, rfl⟩, settle_atRest rfl, rfl, rfl, rfl, ⟨rfl, rfl⟩,
    settle (reinit (settle (reinit s))), rfl, rfl⟩

theorem State.fillsBlock_iff {s : State} : s.fillsBlock = true ↔ s.pendingLen = 63#6 := beq_iff_eq

/-- R122 below index 63: only the buffer and the fill index change. -/
theorem putByte_keeps_control (v : Byte) {s : State} (h : s.pendingLen ≠ 63#6) :
    (putByte v s).h = s.h ∧ (putByte v s).seq = s.seq ∧ (putByte v s).blockReady = s.blockReady := by
  rw [putByte_below v s (Bool.eq_false_iff.mpr (mt State.fillsBlock_iff.mp h))]
  exact ⟨rfl, rfl, rfl⟩

/-- R123 at index 63: the block that the byte completes is compressed at once, and the sequencer is idle again. -/
theorem putByte_compresses (v : Byte) {s : State} (hbuf : s.pending.wf = true) (h : s.pendingLen = 63#6) :
    (putByte v s).h = compressBlock (s.pending.bytes 63 ++ [v]) s.h ∧ (putByte v s).seq = 0x00#8 ∧
      (putByte v s).blockReady = false := by
  have hindex : s.pendingLen.toNat = 63 := congrArg BitVec.toNat h
  have hacc : (compress (storeByte v s)).h = compressBlock (s.pending.bytes 63 ++ [v]) s.h := by
    rw [compress_h, storeByte_h, storeByte_pending, hindex, Memory.bytes_write_end s.pending 63 v hbuf]
  rw [putByte_full v s (State.fillsBlock_iff.mpr h)]
  simp only [hacc, compress_seq, compress_blockReady, and_self]

/-- Settles O15: PutByte on the counted state; its write by the laws of the buffer, the rest by the fill index. -/
theorem absorbStoresAByteAndCompressesAFullBlock : Obligations.AbsorbStoresAByteAndCompressesAFullBlock := by
  intro v s hbuf
  let counted : State := { s with totalLength := add64 s.totalLength 1#64 }
  obtain ⟨hcount, -, -, -, -, -, hacts, hresponses, hdetail, -⟩ := putByte_frame v counted
  have hpending := putByte_pending v counted
  have hlen := putByte_pendingLen v counted
  refine ⟨settle (putByte v counted), rfl, hcount, ?_, fun k hk => ?_, fun hbelow => ?_, fun hfull => ?_,
    rfl, rfl, rfl, hresponses, hacts, hdetail⟩
  · rw [settle_pending, hpending]
    exact Memory.read_write_same s.pending s.pendingLen.toNat v hbuf
  · rw [settle_pending, hpending]
    exact Memory.read_write_other s.pending s.pendingLen.toNat k v hk
  · obtain ⟨hh, hseq, hblock⟩ := putByte_keeps_control v (s := counted) hbelow
    exact ⟨hh, hlen, hseq, hblock⟩
  · obtain ⟨hh, hseq, hblock⟩ := putByte_compresses v (s := counted) hbuf hfull
    exact ⟨hh, hlen.trans (congrArg (· + 1#6) hfull), hseq, hblock⟩

/-! ### Putting bytes into the persistent state in several goes -/

/-- Fewer than 64 bytes in all are kept. -/
theorem HashState.putAll_of_lt {p : HashState} {bs : List Byte} (h : (p.content ++ bs).length < 64) :
    p.putAll bs = { p with content := p.content ++ bs } := by
  simp only [HashState.putAll, Nat.div_eq_of_lt h, foldBlocks_zero, Nat.mul_zero, List.drop_zero]

/-- Exactly 64 bytes in all are one block and leave nothing. -/
theorem HashState.putAll_of_eq {p : HashState} {bs : List Byte} (h : (p.content ++ bs).length = 64) :
    p.putAll bs = { p with h := compressBlock (p.content ++ bs) p.h, content := [] } := by
  have hdrop : (p.content ++ bs).drop (64 * 1) = [] := List.drop_of_length_le h.le
  have hone : 64 / 64 = 0 + 1 := rfl
  simp only [HashState.putAll, h, hone, foldBlocks_succ, foldBlocks_zero, List.take_of_length_le h.le, Nat.zero_add, hdrop]

theorem HashState.put_content_length_lt (v : Byte) {p : HashState} (hp : p.content.length < 64) :
    (p.put v).content.length < 64 := by
  unfold HashState.put
  split
  · simp
  · rename_i hnot
    simp only [List.length_append, List.length_singleton] at hnot ⊢
    omega

theorem HashState.putAll_append {p : HashState} (hp : p.content.length < 64) (xs ys : List Byte) :
    p.putAll (xs ++ ys) = (p.putAll xs).putAll ys := by
  induction xs generalizing p with
  | nil => rw [HashState.putAll_of_lt (bs := []) (by simpa using hp), List.append_nil, List.nil_append]
  | cons v xs ih =>
    rw [List.cons_append, HashState.putAll_cons, HashState.putAll_cons, ih (HashState.put_content_length_lt v hp)]

/-- R129 on the persistent state. -/
theorem HashState.absorbAll_append {p : HashState} (hp : p.content.length < 64) (xs ys : List Byte) :
    p.absorbAll (xs ++ ys) = (p.absorbAll xs).absorbAll ys := by
  induction xs generalizing p with
  | nil => rw [HashState.absorbAll_nil hp, List.nil_append]
  | cons v xs ih =>
    have hnext : (p.absorb v).content.length < 64 :=
      HashState.put_content_length_lt v (p := { p with totalLength := p.totalLength + 1#64 }) hp
    rw [List.cons_append, HashState.absorbAll_cons, HashState.absorbAll_cons, ih hnext]

theorem State.hashState_content_length_lt (s : State) : s.hashState.content.length < 64 := by
  rw [State.hashState_content_length]
  exact s.pendingLen.isLt

/-! ### The four stages of UPDATE (R125 to R128) -/

/-- Successive writes at the fill index append their bytes to the contents. -/
theorem Memory.bytes_writeRun_end (m : Memory) (n : Nat) (bs : List Byte) (hn : n + bs.length ≤ 64) (h : m.wf = true) :
    (m.writeRun n bs).bytes (n + bs.length) = m.bytes n ++ bs := by
  induction bs generalizing m n with
  | nil => simp [Memory.writeRun]
  | cons b rest ih =>
    rw [List.length_cons] at hn ⊢
    have hnext : n + (rest.length + 1) = n + 1 + rest.length := by omega
    have hwf : (m.write n b).wf = true := Memory.write_wf m n b (by unfold Config.blockBytes; omega) h
    rw [Memory.writeRun, hnext, ih (m.write n b) (n + 1) (by omega) hwf, Memory.bytes_write_end m n b h,
      List.append_assoc, List.singleton_append]

/-- R128: bytes that leave the buffer less than full are put. -/
theorem updateRemainder_hashState {bs : List Byte} {s : State} (hbuf : s.pending.wf = true)
    (hroom : s.pendingLen.toNat + bs.length < 64) : (updateRemainder bs s).hashState = s.hashState.putAll bs := by
  have hlen : (s.pendingLen + BitVec.ofNat 6 bs.length).toNat = s.pendingLen.toNat + bs.length := by
    rw [BitVec.toNat_add, BitVec.toNat_ofNat]
    omega
  have happend := Memory.bytes_writeRun_end s.pending s.pendingLen.toNat bs hroom.le hbuf
  rw [HashState.putAll_of_lt (by simpa using hroom)]
  simp only [updateRemainder, State.hashState, hlen, happend]

/-- R126: stage 2 never overfills the buffer, and takes no byte that is not there. -/
theorem fillTake_bounds (bs : List Byte) (s : State) :
    s.pendingLen.toNat + fillTake bs s ≤ 64 ∧ fillTake bs s ≤ bs.length := by
  have hlt := s.pendingLen.isLt
  unfold fillTake
  split <;> omega

theorem length_take_fillTake (bs : List Byte) (s : State) : (bs.take (fillTake bs s)).length = fillTake bs s :=
  List.length_take_of_le (fillTake_bounds bs s).2

/-- R126 when the buffer does not get full: its bytes are appended, as in stage 4. -/
theorem updateFill_below {bs : List Byte} {s : State} (h : s.pendingLen.toNat + fillTake bs s ≠ 64) :
    updateFill bs s = updateRemainder (bs.take (fillTake bs s)) s := by
  rw [updateFill, if_neg h, updateRemainder, length_take_fillTake]

/-- R126 when the buffer gets full. -/
theorem updateFill_full {bs : List Byte} {s : State} (h : s.pendingLen.toNat + fillTake bs s = 64) :
    updateFill bs s =
      { s with
        pending := s.pending.writeRun s.pendingLen.toNat (bs.take (fillTake bs s))
        h := compressBlock ((s.pending.writeRun s.pendingLen.toNat (bs.take (fillTake bs s))).bytes 64) s.h
        pendingLen := 0#6 } := by
  rw [updateFill, if_pos h]

theorem updateFill_pending (bs : List Byte) (s : State) :
    (updateFill bs s).pending = s.pending.writeRun s.pendingLen.toNat (bs.take (fillTake bs s)) := by
  by_cases h : s.pendingLen.toNat + fillTake bs s = 64
  · rw [updateFill_full h]
  · rw [updateFill_below h]
    rfl

theorem updateFill_keeps_wf {bs : List Byte} {s : State} (hbuf : s.pending.wf = true) :
    (updateFill bs s).pending.wf = true := by
  rw [updateFill_pending]
  refine Memory.writeRun_wf _ _ _ ?_ hbuf
  rw [length_take_fillTake]
  exact (fillTake_bounds bs s).1

/-- R126: stage 2 puts the bytes it takes. -/
theorem updateFill_hashState (bs : List Byte) {s : State} (hbuf : s.pending.wf = true) :
    (updateFill bs s).hashState = s.hashState.putAll (bs.take (fillTake bs s)) := by
  have hlen := length_take_fillTake bs s
  have hle := (fillTake_bounds bs s).1
  by_cases h : s.pendingLen.toNat + fillTake bs s = 64
  · have happend := Memory.bytes_writeRun_end s.pending s.pendingLen.toNat (bs.take (fillTake bs s)) (by rwa [hlen]) hbuf
    rw [hlen, h] at happend
    have hblock : (s.hashState.content ++ bs.take (fillTake bs s)).length = 64 := by simpa [hlen] using h
    rw [updateFill_full h, HashState.putAll_of_eq hblock, happend]
    rfl
  · rw [updateFill_below h]
    exact updateRemainder_hashState hbuf (by omega)

/-- R126: stage 2 leaves bytes over only with the buffer empty. -/
theorem updateFill_empty_or_all_taken (bs : List Byte) (s : State) :
    (updateFill bs s).pendingLen = 0#6 ∨ bs.drop (fillTake bs s) = [] := by
  by_cases h : s.pendingLen.toNat + fillTake bs s = 64
  · exact .inl (by rw [updateFill_full h])
  by_cases hempty : s.pendingLen = 0#6
  · have hnone : fillTake bs s = 0 := if_pos hempty
    exact .inl (by simp [updateFill_below h, updateRemainder, hempty, hnone])
  · have htake : fillTake bs s = min (64 - s.pendingLen.toNat) bs.length := if_neg hempty
    have hlt := s.pendingLen.isLt
    exact .inr (List.drop_of_length_le (by omega))

/-- R128: after stage 2 the remainder fits into the buffer and leaves it less than full. -/
theorem remainder_fits (rest : List Byte) {s : State} (h : s.pendingLen = 0#6 ∨ rest = []) :
    s.pendingLen.toNat + (rest.drop (64 * (rest.length / 64))).length < 64 := by
  obtain h | rfl := h
  · rw [h, List.length_drop, BitVec.toNat_zero]
    omega
  · simpa using s.pendingLen.isLt

/-- R127, R128: stages 3 and 4 put the bytes left over. -/
theorem updateBlocks_remainder_hashState (rest : List Byte) {s : State} (hbuf : s.pending.wf = true)
    (h : s.pendingLen = 0#6 ∨ rest = []) :
    (updateRemainder (rest.drop (64 * (rest.length / 64))) (updateBlocks rest s)).hashState = s.hashState.putAll rest := by
  have hfits := remainder_fits rest h
  rw [updateRemainder_hashState (s := updateBlocks rest s) hbuf hfits]
  obtain h | rfl := h
  · have hempty : s.hashState.content = [] := List.eq_nil_of_length_eq_zero (by rw [State.hashState_content_length, h]; rfl)
    have hcontent : (updateBlocks rest s).hashState.content = [] := hempty
    rw [HashState.putAll_of_lt (by rw [hcontent, List.nil_append]; omega), hcontent, HashState.putAll, hempty,
      List.nil_append, List.nil_append]
    rfl
  · rfl

/-- R124: UPDATE absorbs its bytes into the persistent state: stage 2 puts some, stages 3 and 4 the others. -/
theorem update_hashState (bs : List Byte) {s : State} (hbuf : s.pending.wf = true) :
    (update bs s).hashState = s.hashState.absorbAll bs := by
  let counted := updateLength bs.length s
  have hwf : (updateFill bs counted).pending.wf = true := updateFill_keeps_wf (s := counted) hbuf
  calc (update bs s).hashState
      = (updateFill bs counted).hashState.putAll (bs.drop (fillTake bs counted)) :=
        updateBlocks_remainder_hashState _ hwf (updateFill_empty_or_all_taken bs counted)
    _ = (counted.hashState.putAll (bs.take (fillTake bs counted))).putAll (bs.drop (fillTake bs counted)) := by
        rw [updateFill_hashState bs (s := counted) hbuf]
    _ = counted.hashState.putAll bs := by
        rw [← HashState.putAll_append counted.hashState_content_length_lt, List.take_append_drop]
    _ = s.hashState.absorbAll bs := rfl

theorem update_keeps_wf (bs : List Byte) {s : State} (hbuf : s.pending.wf = true) : (update bs s).pending.wf = true := by
  let counted := updateLength bs.length s
  have hfits := remainder_fits (bs.drop (fillTake bs counted)) (updateFill_empty_or_all_taken bs counted)
  exact Memory.writeRun_wf _ _ _ hfits.le (updateFill_keeps_wf (s := counted) hbuf)

/-! ### The obligations about UPDATE -/

/-- Settles O39: `absorbAll` is the list form; the rest after the whole blocks is what the fill index counts. -/
theorem updateHasTheListForm : Obligations.UpdateHasTheListForm := by
  intro bs s hbuf all q
  have hstate := update_hashState bs hbuf
  refine ⟨hstate, ?_⟩
  have hcontent : (update bs s).hashState.content = all.drop (64 * q) := congrArg HashState.content hstate
  rw [← State.hashState_content_length, hcontent, List.length_drop]
  omega

/-- Settles O40: both absorb the bytes into the persistent state. -/
theorem updateEqualsItsBurst : Obligations.UpdateEqualsItsBurst := by
  intro bs s hbuf
  obtain ⟨t, hrun, hstate, -⟩ := execAll_burst bs hbuf
  exact ⟨t, hrun, hstate.trans (update_hashState bs hbuf).symm⟩

/-- Settles O41: absorbing is additive in the bytes. -/
theorem chunkingLeavesNoTrace : Obligations.ChunkingLeavesNoTrace := by
  intro xs ys s hbuf
  rw [update_hashState ys (update_keeps_wf xs hbuf), update_hashState xs hbuf, update_hashState (xs ++ ys) hbuf,
    HashState.absorbAll_append s.hashState_content_length_lt]

end Sys2Proof.Machine
end

section
/-!
PROOFS. FINALIZE (41_finalize.md): the padding of R151 to R153, what it leaves of the persistent state and of the buffer (R154,
R155), the response and the initial state after it (R156 to R158), commands as functions of the persistent state (R162), and
the digest of a message by the machine's steps (R163).
-/

namespace Sys2Proof.Machine

/-! ### The padding (R151 to R153) -/

/-- Settles O22: the shift by three places is a product by eight, whose low three bits are those of a multiple of eight. -/
theorem bitLengthIsEightTimesTheByteCount : Obligations.BitLengthIsEightTimesTheByteCount := by
  intro n
  have hnat : (mul8_64 n).toNat = 8 * n.toNat % 2 ^ 64 := by
    rw [mul8_64_eq_mul_eight, BitVec.toNat_mul, BitVec.toNat_ofNat, Nat.mul_comm]
  refine ⟨hnat, BitVec.eq_of_toNat_eq ?_⟩
  rw [BitVec.extractLsb'_toNat, hnat, BitVec.toNat_ofNat]
  omega

/-- R153: the zero count by the fill length. -/
theorem zeroCount_eq (n : Length) : zeroCount n = (119 - n.toNat % 64) % 64 := by
  rw [zeroCount, BitVec.toNat_sub, BitVec.toNat_setWidth, BitVec.toNat_ofNat]
  omega

/-- Settles O23: all five claims are arithmetic of `zeroCount_eq`. -/
theorem zeroCountIsTheLeastThatAligns : Obligations.ZeroCountIsTheLeastThatAligns := by
  intro n
  rw [zeroCount_eq]
  refine ⟨?_, fun z hz => ?_, ?_, fun hlow => ?_, fun hhigh => ?_⟩ <;> omega

theorem bytesLe_length {m : Nat} (v : BitVec m) (n : Nat) : (bytesLe v n).length = n := by simp [bytesLe]

theorem padding_length (n b : Length) : (padding n b).length = zeroCount n + 9 := by
  simp [padding, bytesLe_length]

/-- Settles O24: `bytesLe` lists the eight bytes, and the zeros are at most 63. -/
theorem paddingIsMarkZerosLength : Obligations.PaddingIsMarkZerosLength := by
  intro n b
  have hzeros := zeroCount_eq n
  have hlen := padding_length n b
  exact ⟨rfl, hlen, by omega, by omega⟩

/-! ### The padding put into the persistent state (R154) -/

/-- R122 for successive bytes: they are put into the persistent state. -/
theorem putBytes_hashState (bs : List Byte) {s : State} (hbuf : s.pending.wf = true) :
    (putBytes bs s).hashState = s.hashState.putAll bs := by
  induction bs generalizing s with
  | nil =>
    rw [HashState.putAll_of_lt (by simpa using s.hashState_content_length_lt), List.append_nil]
    rfl
  | cons b rest ih => rw [putBytes_cons, ih (putByte_keeps_wf b s hbuf), putByte_hashState b hbuf, HashState.putAll_cons]

/-- R150: the accumulators and the rest after the padding. -/
def HashState.padded (p : HashState) : HashState := p.putAll (padding p.totalLength (mul8_64 p.totalLength))

/-- R150, R156: the response FINALIZE makes. -/
def HashState.digest (p : HashState) : Digest := digestBus (digestBytes p.padded.h)

theorem absorbPadding_hashState {s : State} (hbuf : s.pending.wf = true) :
    (absorbPadding s).hashState = s.hashState.padded :=
  putBytes_hashState _ (s := latchBitlen s) hbuf

/-! ### FINALIZE (R150) -/

theorem absorbPadding_frame (s : State) :
    (absorbPadding s).hostActs = s.hostActs ∧ (absorbPadding s).responses = s.responses ∧
      (absorbPadding s).detail = s.detail := by
  obtain ⟨-, -, -, -, -, -, hacts, hresponses, hdetail, -⟩ :=
    putBytes_frame (padding s.totalLength (mul8_64 s.totalLength)) (latchBitlen s)
  exact ⟨hacts, hresponses, hdetail⟩

/-- R156 to R158: the digest of the accumulators goes out, and the state is initial again. -/
def concludeFinalize (s : State) : State := settle (respond (digestBytes s.h) (reinit s))

theorem exec_finalize_eq (s : State) : exec .finalize s = .next (concludeFinalize (absorbPadding s)) := rfl

theorem concludeFinalize_effect (s : State) :
    (concludeFinalize s).responses = s.responses ++ [digestBus (digestBytes s.h)] ∧ (concludeFinalize s).Initial ∧
      (concludeFinalize s).AtRest ∧ (concludeFinalize s).hashState = HashState.initial ∧
      (concludeFinalize s).pending = s.pending ∧ s.sameHost (concludeFinalize s) :=
  ⟨rfl, ⟨rfl, rfl, rfl, rfl, rfl, rfl⟩, settle_atRest rfl, rfl, rfl, rfl, rfl⟩

/-- R157, R158: what FINALIZE leaves in every state. -/
theorem exec_finalize (s : State) :
    ∃ t, exec .finalize s = .next t ∧ t.responses = s.responses ++ [digestBus (digestBytes (absorbPadding s).h)] ∧
      t.Initial ∧ t.AtRest ∧ t.hashState = HashState.initial ∧ t.pending = (absorbPadding s).pending ∧ s.sameHost t := by
  obtain ⟨hacts, hresponses, hdetail⟩ := absorbPadding_frame s
  obtain ⟨hresponse, hinitial, hrest, hstate, hcells, hacts', hdetail'⟩ := concludeFinalize_effect (absorbPadding s)
  exact ⟨_, exec_finalize_eq s, by rw [hresponse, hresponses], hinitial, hrest, hstate, hcells, hacts'.trans hacts,
    hdetail'.trans hdetail⟩

/-- R163, R156: the response of FINALIZE is a function of the persistent state. -/
theorem absorbPadding_digest {s : State} (hbuf : s.pending.wf = true) :
    digestBus (digestBytes (absorbPadding s).h) = s.hashState.digest := by
  have hacc : (absorbPadding s).h = s.hashState.padded.h := congrArg HashState.h (absorbPadding_hashState hbuf)
  rw [HashState.digest, hacc]

/-- R159: the digest of the empty message. -/
theorem initial_digest : hexChars (busBytes HashState.initial.digest) = "d41d8cd98f00b204e9800998ecf8427e".toList := by
  decide +kernel

/-- Settles O17: `exec_finalize`; of an initial persistent state the response is the digest of the empty message. -/
theorem finalizeAlwaysSucceeds : Obligations.FinalizeAlwaysSucceeds := by
  intro s
  obtain ⟨t, hexec, hresponses, hinitial, hrest, hstate, -, hhost⟩ := exec_finalize s
  refine ⟨t, _, hexec, hresponses, hinitial, hrest, hstate, hhost, fun hbuf hempty => ?_⟩
  rw [absorbPadding_digest hbuf, hempty, initial_digest]

/-! ### The final blocks (R155) -/

/-- Bytes that fit into the buffer are written one after the other from the fill index on. -/
theorem putBytes_pending {bs : List Byte} {s : State} (hroom : s.pendingLen.toNat + bs.length ≤ 64) :
    (putBytes bs s).pending = s.pending.writeRun s.pendingLen.toNat bs := by
  induction bs generalizing s with
  | nil => rfl
  | cons b rest ih =>
    rw [List.length_cons] at hroom
    rw [putBytes_cons, Memory.writeRun]
    by_cases hlast : rest = []
    · rw [hlast, putBytes_nil, putByte_pending]
      rfl
    · have hpos := List.length_pos_of_ne_nil hlast
      have hnext : (putByte b s).pendingLen.toNat = s.pendingLen.toNat + 1 := by
        rw [putByte_pendingLen]
        bv_omega
      rw [ih (by omega), hnext, putByte_pending]

/-- R123, R155: bytes that fill the buffer exactly are one compression of the block, which the cells then hold. -/
theorem putBytes_completes_block {bs blk : List Byte} {s : State} (hbuf : s.pending.wf = true)
    (hblk : s.hashState.content ++ bs = blk) (hfull : blk.length = 64) :
    (putBytes bs s).h = compressBlock blk s.h ∧ (putBytes bs s).pending.bytes 64 = blk ∧
      (putBytes bs s).hashState.content = [] := by
  subst hblk
  have hlen : s.pendingLen.toNat + bs.length = 64 := by simpa using hfull
  have hstate := putBytes_hashState bs hbuf
  rw [HashState.putAll_of_eq hfull] at hstate
  have hcells := Memory.bytes_writeRun_end s.pending s.pendingLen.toNat bs hlen.le hbuf
  refine ⟨congrArg HashState.h hstate, ?_, congrArg HashState.content hstate⟩
  rw [putBytes_pending hlen.le, ← hlen, hcells]
  rfl

section
variable {n b : Length} {l : Nat} (hl : n.toNat % 64 = l)
include hl

/-- R155: up to fill length 55 the padding completes the block. -/
theorem padding_one_block (hle : l ≤ 55) :
    padding n b = [0x80#8] ++ List.replicate (55 - l) 0x00#8 ++ bytesLe b 8 := by
  have hzeros : zeroCount n = 55 - l := by
    rw [zeroCount_eq]
    omega
  rw [padding, hzeros]

/-- R155: from fill length 56 on the padding completes the block and makes another. -/
theorem padding_two_blocks (hle : ¬ l ≤ 55) :
    padding n b =
      ([0x80#8] ++ List.replicate (63 - l) 0x00#8) ++ (List.replicate 56 0x00#8 ++ bytesLe b 8) := by
  have hzeros : zeroCount n = (63 - l) + 56 := by
    rw [zeroCount_eq]
    omega
  rw [padding, hzeros, List.replicate_add]
  simp only [List.append_assoc]

end

/-- R26 item 4 in natural numbers. -/
theorem fill_eq {s : State} (hcounts : s.pendingLen = s.totalLength.setWidth 6) :
    s.totalLength.toNat % 64 = s.pendingLen.toNat := by
  rw [hcounts, BitVec.toNat_setWidth]

section
variable {s : State} (hbuf : s.pending.wf = true) (hcounts : s.pendingLen = s.totalLength.setWidth 6)
include hbuf hcounts

/-- R155: FINALIZE with a fill length up to 55 compresses one block. -/
theorem absorbPadding_one_block (hle : s.pendingLen.toNat ≤ 55) :
    let last := s.hashState.content ++ [0x80#8] ++ List.replicate (55 - s.pendingLen.toNat) 0x00#8 ++
      bytesLe (s.totalLength * 8#64) 8
    (absorbPadding s).h = compressBlock last s.h ∧ (absorbPadding s).pending.bytes 64 = last := by
  intro last
  have hblk : (latchBitlen s).hashState.content ++ padding s.totalLength (mul8_64 s.totalLength) = last := by
    rw [padding_one_block (fill_eq hcounts) hle, mul8_64_eq_mul_eight, ← List.append_assoc, ← List.append_assoc]
    rfl
  have hfull : last.length = 64 := by
    simp only [last, List.length_append, State.hashState_content_length, List.length_singleton, List.length_replicate,
      bytesLe_length]
    omega
  obtain ⟨hacc, hcells, -⟩ := putBytes_completes_block (s := latchBitlen s) hbuf hblk hfull
  exact ⟨hacc, hcells⟩

/-- R155: FINALIZE with a fill length from 56 on compresses two blocks. -/
theorem absorbPadding_two_blocks (hgt : ¬ s.pendingLen.toNat ≤ 55) :
    let first := s.hashState.content ++ [0x80#8] ++ List.replicate (63 - s.pendingLen.toNat) 0x00#8
    let last := List.replicate 56 0x00#8 ++ bytesLe (s.totalLength * 8#64) 8
    (absorbPadding s).h = compressBlock last (compressBlock first s.h) ∧
      (absorbPadding s).pending.bytes 64 = last := by
  intro first last
  let mark := [0x80#8] ++ List.replicate (63 - s.pendingLen.toNat) 0x00#8
  have hlt := s.pendingLen.isLt
  have hsplit : absorbPadding s = putBytes last (putBytes mark (latchBitlen s)) := by
    rw [absorbPadding, padding_two_blocks (fill_eq hcounts) hgt, putBytes_append, mul8_64_eq_mul_eight]
  have hfull : first.length = 64 := by
    simp only [first, List.length_append, State.hashState_content_length, List.length_singleton, List.length_replicate]
    omega
  obtain ⟨hfirst, -, hempty⟩ :=
    putBytes_completes_block (s := latchBitlen s) (bs := mark) hbuf (List.append_assoc _ _ _).symm hfull
  have hwf : (putBytes mark (latchBitlen s)).pending.wf = true := putBytes_keeps_wf mark (latchBitlen s) hbuf
  obtain ⟨hacc, hcells, -⟩ := putBytes_completes_block (bs := last) (blk := last) hwf
    (by rw [hempty, List.nil_append]) (by simp [last, bytesLe_length])
  rw [hsplit]
  exact ⟨by rw [hacc, hfirst]; rfl, hcells⟩

end

/-! ### The response of FINALIZE (R87, R155) -/

/-- R87: the bytes on the bus are those put there. -/
theorem busBytes_digestBus_digestBytes (q : Quad) : busBytes (digestBus (digestBytes q)) = digestBytes q := by
  have hbus := (responseBusIsDCBA q).2
  generalize digestBus (digestBytes q) = d at hbus
  simp only [imp_and, forall_and] at hbus
  obtain ⟨ha, hb, hc, hd⟩ := hbus
  have hwords : busBytes d = (List.range 4).map (busByte d) ++ (List.range 4).map (fun k => busByte d (4 + k)) ++
      (List.range 4).map (fun k => busByte d (8 + k)) ++ (List.range 4).map (fun k => busByte d (12 + k)) := rfl
  have hword {f g : Nat → Byte} (h : ∀ k, k < 4 → f k = g k) : (List.range 4).map f = (List.range 4).map g :=
    List.map_congr_left fun k hk => h k (List.mem_range.mp hk)
  rw [hwords, hword ha, hword hb, hword hc, hword hd]
  rfl

/-- Settles O16: what FINALIZE leaves in every state, with the one or two blocks its padding completes. -/
theorem finalizeCompressesTheOneOrTwoFinalBlocks : Obligations.FinalizeCompressesTheOneOrTwoFinalBlocks := by
  intro s hbuf hcounts l content field last before q
  have hblocks : (absorbPadding s).h = q ∧ (absorbPadding s).pending.bytes 64 = last := by
    by_cases hle : l ≤ 55
    · simp only [q, last, before, if_pos hle]
      exact absorbPadding_one_block hbuf hcounts hle
    · simp only [q, last, before, if_neg hle]
      exact absorbPadding_two_blocks hbuf hcounts hle
  obtain ⟨hdigest, hlast⟩ := hblocks
  obtain ⟨t, hexec, hresponses, hinitial, hrest, hstate, hcells, hhost⟩ := exec_finalize s
  refine ⟨t, hexec, ?_, ?_, hinitial, hrest, hstate, by rw [hcells, hlast], hhost⟩
  · rw [hresponses, hdigest, digestBus_digestBytes]
  · rw [← digestBus_digestBytes, busBytes_digestBus_digestBytes]

/-! ### Commands on the persistent state (R21, R158) -/

/-- R120, R121, R157 on the persistent state; a micro-operation is no command. -/
def HashState.command (i : Instr) (p : HashState) : HashState :=
  match i with
  | .absorb v => p.absorb v
  | .finalize => .initial
  | .reset => .initial
  | .idle => p
  | .seed => p
  | .roundF _ => p
  | .roundG _ => p
  | .roundH _ => p
  | .roundI _ => p
  | .feedfwd => p

/-- R86: what an instruction responds, by the persistent state. -/
def HashState.reply (i : Instr) (p : HashState) : List Digest := if i = .finalize then [p.digest] else []

/-- R65 on the persistent state. -/
def HashState.commands (cs : List Instr) (p : HashState) : HashState := cs.foldl (fun p i => p.command i) p

/-- The responses of a sequence of commands, in order. -/
def HashState.replies (cs : List Instr) (p : HashState) : List Digest :=
  match cs with
  | [] => []
  | i :: rest => p.reply i ++ HashState.replies rest (p.command i)

/-- What a sequence of commands leaves of a state: a function of its persistent part. -/
structure CommandsEffect (cs : List Instr) (s t : State) : Prop where
  /-- R21 -/
  persistent : t.hashState = s.hashState.commands cs
  /-- R158 -/
  responses : t.responses = s.responses ++ s.hashState.replies cs
  /-- the buffer stays canonical (log entry 2) -/
  buffer : t.pending.wf = true

theorem CommandsEffect.nil {s : State} (hbuf : s.pending.wf = true) : CommandsEffect [] s s :=
  ⟨rfl, (List.append_nil _).symm, hbuf⟩

theorem CommandsEffect.cons {i : Instr} {cs : List Instr} {s u t : State} (hone : CommandsEffect [i] s u)
    (hrest : CommandsEffect cs u t) : CommandsEffect (i :: cs) s t := by
  refine ⟨by rw [hrest.persistent, hone.persistent]; rfl, ?_, hrest.buffer⟩
  rw [hrest.responses, hone.responses, hone.persistent]
  simp [HashState.replies, HashState.commands]

/-- R80, R83: a command is ABSORB, FINALIZE or RESET. -/
theorem isCommand_cases {i : Instr} (h : isCommand i = true) : (∃ v, i = .absorb v) ∨ i = .finalize ∨ i = .reset := by
  cases i <;> simp [isCommand, encode] at h ⊢

/-- R158, R30: each command acts on the persistent state alone, leaves the host as it was, and leaves an engine at rest. -/
theorem exec_command {i : Instr} (hcmd : isCommand i = true) {s : State} (hbuf : s.pending.wf = true) :
    ∃ t, exec i s = .next t ∧ CommandsEffect [i] s t ∧ s.sameHost t ∧ (s.midCompression = false → t.AtRest) := by
  obtain ⟨v, rfl⟩ | rfl | rfl := isCommand_cases hcmd
  · obtain ⟨t, hexec, hstate, hwf⟩ := exec_absorb_hashState v hbuf
    have hresponses := onlyFinalizeResponds _ s t hexec nofun
    cases hexec
    obtain ⟨-, -, -, -, -, -, hacts, -, hdetail, -⟩ := putByte_frame v { s with totalLength := add64 s.totalLength 1#64 }
    exact ⟨_, rfl, ⟨hstate, hresponses.trans (List.append_nil _).symm, hwf⟩, ⟨hacts, hdetail⟩,
      fun hmid => settle_atRest (putByte_midCompression v hmid)⟩
  · obtain ⟨t, hexec, hresponses, -, hrest, hstate, hcells, hhost⟩ := exec_finalize s
    have hwf : t.pending.wf = true := by
      rw [hcells]
      exact putBytes_keeps_wf _ (latchBitlen s) hbuf
    exact ⟨t, hexec, ⟨hstate, by rw [hresponses, absorbPadding_digest hbuf]; rfl, hwf⟩, hhost, fun _ => hrest⟩
  · exact ⟨_, rfl, ⟨rfl, (List.append_nil _).symm, hbuf⟩, ⟨rfl, rfl⟩, fun _ => settle_atRest rfl⟩

/-- R65: the same of a sequence of commands. -/
theorem execAll_commands {cs : List Instr} (hcmds : ∀ i ∈ cs, isCommand i = true) {s : State}
    (hbuf : s.pending.wf = true) : ∃ t, execAll cs s = .next t ∧ CommandsEffect cs s t := by
  induction cs generalizing s with
  | nil => exact ⟨s, rfl, .nil hbuf⟩
  | cons i rest ih =>
    obtain ⟨hi, hrest⟩ := List.forall_mem_cons.mp hcmds
    obtain ⟨u, hexec, heffect, -, -⟩ := exec_command hi hbuf
    obtain ⟨t, hall, heffect'⟩ := ih hrest heffect.buffer
    exact ⟨t, by rw [execAll, hexec]; exact hall, heffect.cons heffect'⟩

/-- Settles O18: both states have the effect that their common persistent state determines. -/
theorem commandsReadThePersistentStateOnly : Obligations.CommandsReadThePersistentStateOnly := by
  intro i s₁ s₂ hcmd hbuf₁ hbuf₂ hsame
  obtain ⟨t₁, hexec₁, heffect₁, -, -⟩ := exec_command hcmd hbuf₁
  obtain ⟨t₂, hexec₂, heffect₂, -, -⟩ := exec_command hcmd hbuf₂
  refine ⟨t₁, t₂, s₁.hashState.replies [i], hexec₁, hexec₂, ?_, heffect₁.responses, ?_⟩
  · rw [heffect₁.persistent, heffect₂.persistent, hsame]
  · rw [heffect₂.responses, hsame]

/-- Settles O19: FINALIZE and RESET leave the same persistent state, which determines what the commands after them do. -/
theorem finalizeLeavesAFreshEngine : Obligations.FinalizeLeavesAFreshEngine := by
  intro cs s hbuf hcmds
  obtain ⟨f, hfinalize, hf, -, -⟩ := exec_command (i := .finalize) rfl hbuf
  obtain ⟨r, hreset, hr, -, -⟩ := exec_command (i := .reset) rfl hbuf
  obtain ⟨f', hrunf, hf'⟩ := execAll_commands hcmds hf.buffer
  obtain ⟨r', hrunr, hr'⟩ := execAll_commands hcmds hr.buffer
  have hsame : f.hashState = r.hashState := hf.persistent.trans hr.persistent.symm
  refine ⟨f, r, f', r', f.hashState.replies cs, hfinalize, hreset, hrunf, hrunr, ?_, hf'.responses, ?_⟩
  · rw [hf'.persistent, hr'.persistent, hsame]
  · rw [hr'.responses, hsame]

/-! ### The digest of a message by the machine's steps (R163) -/

/-- R80: the host can present every command. -/
theorem encode_of_isCommand {i : Instr} (h : isCommand i = true) : ∃ w, encode i = .cmd w ∧ decode (.cmd w) = .ok i := by
  obtain ⟨v, rfl⟩ | rfl | rfl := isCommand_cases h <;> exact ⟨_, rfl, decode_of_encode rfl rfl⟩

theorem commandWords_cons {i : Instr} {w : CmdWord} (h : encode i = .cmd w) (cs : List Instr) :
    commandWords (i :: cs) = w :: commandWords cs := by
  simp [commandWords, h]

/-- R13, R82: at the command level an engine at rest takes one step for each command presented to it. -/
theorem runSteps_commandWords {cs : List Instr} (hcmds : ∀ i ∈ cs, isCommand i = true) {rest : List HostAct} {s : State}
    (hrest : s.AtRest) (hbuf : s.pending.wf = true) (hdetail : s.detail = .command)
    (hacts : s.hostActs = presentWords (commandWords cs) ++ rest) :
    ∃ t, runSteps cs.length s = .next t ∧ CommandsEffect cs s t ∧ t.hostActs = rest := by
  induction cs generalizing s with
  | nil => exact ⟨s, rfl, .nil hbuf, hacts⟩
  | cons i cs ih =>
    obtain ⟨hi, hcs⟩ := List.forall_mem_cons.mp hcmds
    obtain ⟨w, hencode, hdecode⟩ := encode_of_isCommand hi
    rw [commandWords_cons hencode] at hacts
    have hstep := (stepRunsTheAcceptedCommand s w _ i hrest hacts hdecode).1 hdetail
    obtain ⟨u, hexec, heffect, ⟨hacts', hdetail'⟩, hrest'⟩ :=
      exec_command hi (s := { s with hostActs := presentWords (commandWords cs) ++ rest }) hbuf
    have hone : CommandsEffect [i] s u := ⟨heffect.persistent, heffect.responses, heffect.buffer⟩
    obtain ⟨t, hrun, hmore, hleft⟩ :=
      ih hcs (hrest' hrest.midCompression_eq_false) hone.buffer (hdetail'.trans hdetail) hacts'
    exact ⟨t, by rw [List.length_cons, runSteps_succ (hstep.trans hexec), hrun], hone.cons hmore, hleft⟩

/-- R131, R86: a burst absorbs its bytes and responds nothing. -/
theorem HashState.replies_burst (m : List Byte) (cs : List Instr) {p : HashState} (hp : p.content.length < 64) :
    p.replies (burst m ++ cs) = (p.absorbAll m).replies cs := by
  induction m generalizing p with
  | nil => rw [HashState.absorbAll_nil hp]; rfl
  | cons v m ih =>
    have hnext : (p.absorb v).content.length < 64 :=
      HashState.put_content_length_lt v (p := { p with totalLength := p.totalLength + 1#64 }) hp
    rw [HashState.absorbAll_cons, ← ih hnext]
    rfl

/-- R163: the padding of a counted message is the one of the rule. -/
theorem append_padding (m : List Byte) :
    m ++ padding (BitVec.ofNat 64 m.length) (mul8_64 (BitVec.ofNat 64 m.length)) = paddedMessage m := by
  have hzeros : zeroCount (BitVec.ofNat 64 m.length) = (119 - m.length % 64) % 64 := by
    rw [zeroCount_eq, BitVec.toNat_ofNat]
    omega
  have hbits : mul8_64 (BitVec.ofNat 64 m.length) = BitVec.ofNat 64 (8 * m.length) := by
    rw [mul8_64_eq_mul_eight, Nat.mul_comm, BitVec.ofNat_mul]
  rw [padding, hzeros, hbits, paddedMessage]
  simp only [List.append_assoc]

/-- R163: the response to a message absorbed from the initial state is its digest. -/
theorem HashState.digest_absorbAll_initial (m : List Byte) :
    (HashState.initial.absorbAll m).digest = digestBus (digestOf m) := by
  let counted : HashState := { HashState.initial with totalLength := BitVec.ofNat 64 m.length }
  have habsorbed : HashState.initial.absorbAll m = counted.putAll m := by
    simp [HashState.absorbAll, counted, HashState.initial]
  have hpadded : (counted.putAll m).padded = counted.putAll (paddedMessage m) := by
    rw [← append_padding, HashState.putAll_append (p := counted) (by simp [counted, HashState.initial])]
    rfl
  have hacc : (counted.putAll (paddedMessage m)).h = digestQuad m := by
    simp [HashState.putAll, counted, HashState.initial, digestQuad]
  rw [HashState.digest, habsorbed, hpadded, hacc, digestOf]

/-- Settles O43: the burst absorbs the message and responds nothing; FINALIZE after it responds with the digest. -/
theorem everyMessageGetsItsDigest : Obligations.EveryMessageGetsItsDigest := by
  intro m s rest hrest hbuf hdetail hinitial hacts
  have hcmds : ∀ i ∈ burst m ++ [.finalize], isCommand i = true := by
    simp only [burst, List.mem_append, List.mem_map, List.mem_singleton]
    rintro i (⟨v, -, rfl⟩ | rfl) <;> rfl
  obtain ⟨t, hrun, heffect, hleft⟩ := runSteps_commandWords hcmds hrest hbuf hdetail hacts
  have hlen : (burst m ++ [Instr.finalize]).length = m.length + 1 := by simp [burst]
  refine ⟨t, hlen ▸ hrun, ?_, ?_, hleft⟩
  · rw [heffect.responses, HashState.replies_burst m _ s.hashState_content_length_lt, hinitial,
      ← HashState.digest_absorbAll_initial]
    rfl
  · rw [heffect.persistent, HashState.commands, List.foldl_append]
    rfl

end Sys2Proof.Machine
end

section
/-!
PROOFS. FINALIZE and ABSORB micro-operation by micro-operation (R161, R191): the control of a busy engine, the response instant
(R86, R158), and the run of a command from its acceptance to its end.
-/

namespace Sys2Proof.Machine

/-! ### The step of a busy engine (R82) -/

theorem step_control {s : State} (hmid : s.midCompression = false) (hbusy : s.cmdReady = false)
    (hrst : ∀ rest, s.hostActs ≠ .rst :: rest) : step s = .next (commandControl (tick s)) := by
  obtain ⟨rest, hacts, -⟩ | ⟨-, hmid', -⟩ | ⟨-, -, -, hstep⟩ | ⟨-, -, hready, -⟩ := step_cases s
  · exact absurd hacts (hrst rest)
  · simp [hmid] at hmid'
  · exact hstep
  · simp [hbusy] at hready

theorem step_control_quiet {s : State} (hmid : s.midCompression = false) (hbusy : s.cmdReady = false)
    (hquiet : s.hostActs = []) : step s = .next (commandControl s) := by
  rw [step_control hmid hbusy (by simp [hquiet]), tick_quiet s hquiet]

theorem step_sequencer_quiet {s : State} (hmid : s.midCompression = true) (hquiet : s.hostActs = []) :
    step s = runSequencer s := by
  obtain ⟨rest, hacts, -⟩ | ⟨-, -, hstep⟩ | ⟨-, hnot, -⟩ | ⟨-, hnot, -⟩ := step_cases s
  · simp [hquiet] at hacts
  · rw [hstep, tick_quiet s hquiet]
  · simp [hmid] at hnot
  · simp [hmid] at hnot

section
variable {s : State}

theorem commandControl_ends (h : s.activity = .rest ∨ s.activity = .absorbing ∨ s.activity = .responding) :
    commandControl s = settle s := by
  obtain h | h | h := h <;> simp only [commandControl, h]

theorem commandControl_padMark (h : s.activity = .padMark) : commandControl s = serialMark s := by
  simp only [commandControl, h]

theorem commandControl_padZeros (h : s.activity = .padZeros) : commandControl s = serialZero s := by
  simp only [commandControl, h]

theorem commandControl_padLength {k : BitVec 3} (h : s.activity = .padLength k) :
    commandControl s = serialLength k s := by
  simp only [commandControl, h]

theorem commandControl_readOut (h : s.activity = .readOut) : commandControl s = serialReadOut s := by
  simp only [commandControl, h]

theorem State.zerosDone_iff : s.zerosDone = true ↔ s.pendingLen = 56#6 := beq_iff_eq

end

/-- Settles O9: the control of each activity, written out. -/
theorem stepOfABusyEngineIsItsControl : Obligations.StepOfABusyEngineIsItsControl := by
  intro s hmid hbusy hrst u
  have hstep : step s = .next (commandControl u) := step_control hmid hbusy hrst
  have hact : u.activity = s.activity := tick_activity s
  rw [hstep, ← hact]
  refine ⟨rfl, fun hend => ?_, fun hmark => ?_, fun hzeros hmore => ?_, fun hzeros hdone => ?_, fun k hlength => ?_,
    fun hout => ?_⟩
  · rw [commandControl_ends hend]
    exact ⟨_, _, _, rfl⟩
  · rw [commandControl_padMark hmark]
    rfl
  · rw [commandControl_padZeros hzeros, serialZero, if_neg (mt State.zerosDone_iff.mp hmore)]
    rfl
  · rw [commandControl_padZeros hzeros, serialZero, if_pos (State.zerosDone_iff.mpr hdone)]
  · rw [commandControl_padLength hlength]
    rfl
  · rw [commandControl_readOut hout, ← digestBus_digestBytes]
    rfl

/-- Settles O51: the control's step at `readOut`, and its step at `responding`, which ends the command. -/
theorem responseInstantPrecedesReady : Obligations.ResponseInstantPrecedesReady := by
  intro s hinv hact hmid hquiet
  have hbusy : s.cmdReady = false := by simpa [hact] using hinv.ready
  have hout : step s = .next (serialReadOut s) := by
    rw [step_control_quiet hmid hbusy hquiet, commandControl_readOut hact]
  have hend : step (serialReadOut s) = .next (settle (serialReadOut s)) := by
    rw [step_control_quiet (s := serialReadOut s) rfl hbusy hquiet, commandControl_ends (.inr (.inr rfl))]
  rw [← digestBus_digestBytes]
  exact ⟨serialReadOut s, settle (serialReadOut s), hout, rfl, rfl, hbusy, rfl, rfl, hend, rfl, rfl, rfl, rfl⟩

/-! ### Runs of a busy engine -/

/-- `n` steps from `s` to `t`, with `cmd_ready` = 0 at the start of each. -/
inductive BusyRun : Nat → State → State → Prop where
  | refl (s : State) : BusyRun 0 s s
  | step {n : Nat} {s u t : State} (hbusy : s.cmdReady = false) (hstep : step s = .next u) (hrun : BusyRun n u t) :
    BusyRun (n + 1) s t

theorem BusyRun.runSteps {n : Nat} {s t : State} (h : BusyRun n s t) :
    runSteps n s = .next t ∧ ∀ k, k < n → ∃ u, runSteps k s = .next u ∧ u.cmdReady = false := by
  induction h with
  | refl s => exact ⟨rfl, nofun⟩
  | step hbusy hstep _ ih =>
    obtain ⟨hrun, hall⟩ := ih
    refine ⟨(runSteps_succ hstep).trans hrun, fun k hk => ?_⟩
    cases k with
    | zero => exact ⟨_, rfl, hbusy⟩
    | succ k =>
      rw [runSteps_succ hstep]
      exact hall k (by omega)

theorem BusyRun.trans {m n : Nat} {s u t : State} (h : BusyRun m s u) (h' : BusyRun n u t) : BusyRun (m + n) s t := by
  induction h with
  | refl s => rwa [Nat.zero_add]
  | step hbusy hstep _ ih =>
    rw [Nat.add_right_comm]
    exact .step hbusy hstep (ih h')

theorem BusyRun.cast {m n : Nat} {s t : State} (h : BusyRun m s t) (hmn : m = n) : BusyRun n s t := hmn ▸ h

/-! ### A compression in the run (R191) -/

theorem State.midCompression_of_seq {s : State} (h : s.seq ≠ 0x00#8) : s.midCompression = true := by
  simp [State.midCompression, h]

section
variable {s : State} (hquiet : s.hostActs = [])
include hquiet

theorem step_idle_completing (hseq : s.seq = 0x00#8) (hready : s.blockReady = true) : step s = .next (idleOp s) :=
  (step_sequencer_quiet (by simp [State.midCompression, hready]) hquiet).trans (runSequencer_idle hseq)

theorem step_seed (hseq : s.seq = 0x40#8) : step s = .next (seedOp s) :=
  (step_sequencer_quiet (State.midCompression_of_seq (by simp [hseq])) hquiet).trans (runSequencer_seed hseq)

theorem step_round (hlo : 0x80 ≤ s.seq.toNat) (hhi : s.seq.toNat < 0xC0) :
    step s = .next (roundOp (mixOf (roundGroup s.rnd)) s.rnd s) :=
  (step_sequencer_quiet (State.midCompression_of_seq (by bv_omega)) hquiet).trans (runSequencer_round hlo hhi)

theorem step_feedfwd (hseq : s.seq = 0xC0#8) : step s = .next (feedfwdOp s) :=
  (step_sequencer_quiet (State.midCompression_of_seq (by simp [hseq])) hquiet).trans (runSequencer_feedfwd hseq)

end

/-- R183: the rounds up to index 63, one step each. -/
theorem busyRun_rounds {n : Nat} {s : State} (hlo : 0x80 ≤ s.seq.toNat) (hhi : s.seq.toNat + n ≤ 0xC0)
    (hbusy : s.cmdReady = false) (hquiet : s.hostActs = []) : BusyRun n s (runRounds n s) := by
  induction n generalizing s with
  | zero => exact .refl s
  | succ n ih =>
    have hnext : (s.seq + 1#8).toNat = s.seq.toNat + 1 := by bv_omega
    exact .step hbusy (step_round hquiet hlo (by omega))
      (ih (by rw [roundOp_seq]; omega) (by rw [roundOp_seq]; omega) hbusy hquiet)

/-- R182, R183, R188: from SEED on, 66 steps. -/
theorem busyRun_seed {s : State} (hseq : s.seq = 0x40#8) (hbusy : s.cmdReady = false) (hquiet : s.hostActs = []) :
    BusyRun 66 s (feedfwdOp (runRounds 64 (seedOp s))) := by
  have hframe := runRounds_frame 64 (seedOp s)
  have hrounds : BusyRun 64 (seedOp s) (runRounds 64 (seedOp s)) :=
    busyRun_rounds (by rw [seedOp_seq]; decide) (by rw [seedOp_seq]; decide) hbusy hquiet
  have hbusy' : (runRounds 64 (seedOp s)).cmdReady = false := (congrArg State.cmdReady hframe).trans hbusy
  have hquiet' : (runRounds 64 (seedOp s)).hostActs = [] := (congrArg State.hostActs hframe).trans hquiet
  exact .step hbusy (step_seed hquiet hseq)
    (hrounds.trans (.step hbusy' (step_feedfwd hquiet' (congrArg State.seq hframe)) (.refl _)))

/-- R90, R191: with a block complete, 67 steps compress it. -/
theorem busyRun_compress {s : State} (hseq : s.seq = 0x00#8) (hready : s.blockReady = true) (hbusy : s.cmdReady = false)
    (hquiet : s.hostActs = []) : BusyRun 67 s (compress s) := by
  have hs : ({ s with blockReady := true } : State) = s := by rw [← hready]
  rw [compress, hs]
  exact .step hbusy (step_idle_completing hquiet hseq hready)
    (busyRun_seed (by rw [idleOp_seq, hready]; rfl) hbusy hquiet)

/-! ### PutByte in the run (R25, R122) -/

/-- A compression reads the accumulators and the buffer only, and keeps the rest. -/
theorem compress_withControl (s : State) (n : BitVec 6) (ready : Bool) (a : Activity) (cmd : Bool) :
    compress { s with pendingLen := n, blockReady := ready, activity := a, cmdReady := cmd } =
      { compress s with pendingLen := n, activity := a, cmdReady := cmd } := by
  let t : State := { s with pendingLen := n, blockReady := ready, activity := a, cmdReady := cmd }
  have hh : (compress t).h = (compress s).h := compress_h_congr t s rfl rfl
  have hw : (compress t).w = (compress s).w :=
    runRounds_w_congr 64 (seedOp (idleOp { t with blockReady := true })) (seedOp (idleOp { s with blockReady := true }))
      rfl rfl rfl
  rw [compress_frame t, compress_frame s, hh, hw]

/-- No micro-operation is due, and the host has nothing to do. -/
structure State.Quiet (s : State) : Prop where
  /-- R33 -/
  settled : s.midCompression = false
  /-- R263 -/
  host : s.hostActs = []

theorem State.Quiet.begun {s : State} (h : s.Quiet) (a : Activity) : (beginCommand a s).Quiet :=
  ⟨h.settled, h.host⟩

theorem State.Quiet.after_putByte {s : State} (h : s.Quiet) (v : Byte) : (putByte v s).Quiet := by
  obtain ⟨-, -, -, -, -, -, hacts, -⟩ := putByte_frame v s
  exact ⟨putByte_midCompression v h.settled, hacts.trans h.host⟩

theorem State.Quiet.after_putBytes {s : State} (h : s.Quiet) (bs : List Byte) : (putBytes bs s).Quiet := by
  induction bs generalizing s with
  | nil => exact h
  | cons b rest ih => exact ih (h.after_putByte b)

@[simp] theorem putByte_bitlen (v : Byte) (s : State) : (putByte v s).bitlen = s.bitlen := by
  obtain ⟨-, hbitlen, -⟩ := putByte_frame v s
  exact hbitlen

@[simp] theorem putBytes_bitlen (bs : List Byte) (s : State) : (putBytes bs s).bitlen = s.bitlen := by
  obtain ⟨-, hbitlen, -⟩ := putBytes_frame bs s
  exact hbitlen

theorem putByte_fill (v : Byte) (s : State) : (putByte v s).pendingLen.toNat = (s.pendingLen.toNat + 1) % 64 := by
  rw [putByte_pendingLen, BitVec.toNat_add]
  rfl

theorem putBytes_fill (bs : List Byte) (s : State) :
    (putBytes bs s).pendingLen.toNat = (s.pendingLen.toNat + bs.length) % 64 := by
  induction bs generalizing s with
  | nil => exact (Nat.mod_eq_of_lt s.pendingLen.isLt).symm
  | cons b rest ih =>
    rw [putBytes_cons, ih, putByte_fill, List.length_cons]
    omega

/-- A run that begins with a step of the control. -/
theorem State.Quiet.busyStep {s : State} (h : s.Quiet) (a : Activity) {n : Nat} {t : State}
    (hrun : BusyRun n (commandControl (beginCommand a s)) t) : BusyRun (n + 1) (beginCommand a s) t :=
  .step rfl (step_control_quiet (h.begun a).settled rfl (h.begun a).host) hrun

/-- What PutByte begins in its byte-serial form, the sequencer ends: after the write at index 63 it compresses the block. -/
theorem busyRun_putByteSerial (v : Byte) (a : Activity) {s : State} (h : s.Quiet) :
    BusyRun (67 * ((s.pendingLen.toNat + 1) / 64)) (putByteSerial v (beginCommand a s))
      (beginCommand a (putByte v s)) := by
  obtain ⟨hseq, hblock⟩ := State.midCompression_eq_false_iff.mp h.settled
  cases hfull : s.fillsBlock with
  | false =>
    have hfill : s.pendingLen ≠ 63#6 := fun h63 => by simp [State.fillsBlock_iff.mpr h63] at hfull
    have hnone : 67 * ((s.pendingLen.toNat + 1) / 64) = 0 := by bv_omega
    have hdone : putByteSerial v (beginCommand a s) = beginCommand a (putByte v s) := by
      rw [putByte_below v s hfull]
      simp only [putByteSerial, beginCommand, storeByte, State.fillsBlock] at hfull ⊢
      rw [hfull, hblock]
    rw [hnone, hdone]
    exact .refl _
  | true =>
    have hfill : s.pendingLen = 63#6 := State.fillsBlock_iff.mp hfull
    have hone : 67 * ((s.pendingLen.toNat + 1) / 64) = 67 := by rw [hfill]; rfl
    have hdone : compress (putByteSerial v (beginCommand a s)) = beginCommand a (putByte v s) := by
      have hserial : putByteSerial v (beginCommand a s) = { storeByte v s with
          pendingLen := s.pendingLen + 1#6, blockReady := s.fillsBlock, activity := a, cmdReady := false } := rfl
      have hwrap : s.pendingLen + 1#6 = 0#6 := by rw [hfill]; rfl
      rw [putByte_full v s hfull, hserial, compress_withControl, hwrap]
      generalize compress (storeByte v s) = u
      rfl
    rw [hone, ← hdone]
    exact busyRun_compress hseq hfull rfl h.host

/-- The steps that `n` bytes take from fill index `l` on: one for each byte and 67 for each block it completes. -/
def putSteps (l n : Nat) : Nat := n + 67 * ((l + n) / 64)

theorem putSteps_add (l m n : Nat) : putSteps l m + putSteps ((l + m) % 64) n = putSteps l (m + n) := by
  unfold putSteps
  omega

/-- A step of the control that puts a byte, and the compression after it if there is one. -/
theorem busyRun_put {v : Byte} {a a' : Activity} {s : State} (h : s.Quiet)
    (hcontrol : commandControl (beginCommand a s) = putByteSerial v (beginCommand a' s)) :
    BusyRun (putSteps s.pendingLen.toNat 1) (beginCommand a s) (beginCommand a' (putByte v s)) := by
  have hrun := busyRun_putByteSerial v a' h
  rw [← hcontrol] at hrun
  exact (h.busyStep a hrun).cast (Nat.add_comm _ _)

/-! ### The lines of R161 -/

theorem control_zeros_done {s : State} (h : s.pendingLen = 56#6) :
    commandControl (beginCommand .padZeros s) = beginCommand (.padLength 0#3) s :=
  (commandControl_padZeros rfl).trans (if_pos (State.zerosDone_iff.mpr h))

theorem control_zeros_more {s : State} (h : s.pendingLen ≠ 56#6) :
    commandControl (beginCommand .padZeros s) = putByteSerial 0x00#8 (beginCommand .padZeros s) :=
  (commandControl_padZeros rfl).trans (if_neg (mt State.zerosDone_iff.mp h))

theorem control_length (k : BitVec 3) (s : State) :
    commandControl (beginCommand (.padLength k) s) = putByteSerial (s.bitlen.extractLsb' (8 * k.toNat) 8)
      (beginCommand (if k = 7#3 then .readOut else .padLength (k + 1#3)) s) := rfl

/-- F3: the zeros up to index 56, and one step that ends the loop. -/
theorem busyRun_zeros {z : Nat} {s : State} (h : s.Quiet) (hz : s.pendingLen + BitVec.ofNat 6 z = 56#6) (hlt : z < 64) :
    BusyRun (putSteps s.pendingLen.toNat z + 1) (beginCommand .padZeros s)
      (beginCommand (.padLength 0#3) (putBytes (List.replicate z 0x00#8) s)) := by
  induction z generalizing s with
  | zero =>
    have hdone : s.pendingLen = 56#6 := by simpa using hz
    have hend : BusyRun 0 (commandControl (beginCommand .padZeros s)) (beginCommand (.padLength 0#3) s) := by
      rw [control_zeros_done hdone]
      exact .refl _
    have hsteps : putSteps s.pendingLen.toNat 0 = 0 := by rw [hdone]; rfl
    rw [hsteps]
    exact h.busyStep .padZeros hend
  | succ z ih =>
    have hmore : s.pendingLen ≠ 56#6 := by bv_omega
    have hrest := ih (h.after_putByte 0x00#8) (by rw [putByte_pendingLen]; bv_omega) (by omega)
    rw [putByte_fill] at hrest
    refine ((busyRun_put h (control_zeros_more hmore)).trans hrest).cast ?_
    rw [← Nat.add_assoc, putSteps_add, Nat.add_comm 1]

/-- F4: the bytes of `bitlen` from byte `k` on. -/
theorem busyRun_length {n : Nat} {k : BitVec 3} {s : State} (h : s.Quiet) (hk : k.toNat + n = 7) :
    BusyRun (putSteps s.pendingLen.toNat (n + 1)) (beginCommand (.padLength k) s) (beginCommand .readOut
      (putBytes ((List.range' k.toNat (n + 1)).map fun j => s.bitlen.extractLsb' (8 * j) 8) s)) := by
  have hput := busyRun_put h (control_length k s)
  induction n generalizing k s with
  | zero =>
    rw [if_pos (by bv_omega)] at hput
    exact hput
  | succ n ih =>
    rw [if_neg (by bv_omega)] at hput
    have hnext : (k + 1#3).toNat = k.toNat + 1 := by bv_omega
    have hquiet := h.after_putByte (s.bitlen.extractLsb' (8 * k.toNat) 8)
    have hrest := ih hquiet (k := k + 1#3) (by omega) (busyRun_put hquiet (control_length _ _))
    rw [putByte_fill, putByte_bitlen, hnext] at hrest
    refine (hput.trans hrest).cast ?_
    rw [putSteps_add, Nat.add_comm 1]

/-- F5, F6 and the end of the command. -/
theorem busyRun_readOut {s : State} (h : s.Quiet) : BusyRun 2 (beginCommand .readOut s) (concludeFinalize s) :=
  h.busyStep .readOut (.step rfl (step_control_quiet rfl rfl h.host) (.refl _))

/-- F1 to F6: a FINALIZE begun at the micro-operation level ends as the command does. -/
theorem busyRun_finalize {s : State} (h : s.Quiet) (hcounts : s.pendingLen = s.totalLength.setWidth 6) :
    ∃ n, n ≤ 209 ∧ BusyRun n (startFinalize s) (concludeFinalize (absorbPadding s)) := by
  let marked := putByte 0x80#8 (latchBitlen s)
  let filled := putBytes (List.replicate (zeroCount s.totalLength) 0x00#8) marked
  have hlatched : (latchBitlen s).Quiet := ⟨h.settled, h.host⟩
  have hmarked : marked.Quiet := hlatched.after_putByte _
  have hfilled : filled.Quiet := hmarked.after_putBytes _
  have hlatch : filled.bitlen = mul8_64 s.totalLength := by simp [filled, marked]
  have hpadded : absorbPadding s = putBytes (bytesLe filled.bitlen 8) filled := by
    rw [hlatch, absorbPadding, padding, putBytes_append, putBytes_append]
    rfl
  have hzeros := zeroCount_eq s.totalLength
  have hfill := fill_eq hcounts
  have hmarkFill : marked.pendingLen.toNat = (s.pendingLen.toNat + 1) % 64 := putByte_fill _ _
  have hfillFill : filled.pendingLen.toNat = (marked.pendingLen.toNat + zeroCount s.totalLength) % 64 := by
    rw [putBytes_fill, List.length_replicate]
  have hmarkRun : BusyRun (putSteps s.pendingLen.toNat 1) (startFinalize s) (beginCommand .padZeros marked) :=
    busyRun_put hlatched rfl
  have haligned : marked.pendingLen + BitVec.ofNat 6 (zeroCount s.totalLength) = 56#6 := by
    apply BitVec.eq_of_toNat_eq
    rw [BitVec.toNat_add, BitVec.toNat_ofNat, BitVec.toNat_ofNat]
    omega
  have hzeroRun := busyRun_zeros hmarked haligned (by omega)
  have hlengthRun := busyRun_length (n := 7) (k := 0#3) hfilled rfl
  have hrun := ((hmarkRun.trans hzeroRun).trans hlengthRun).trans (busyRun_readOut (hfilled.after_putBytes _))
  refine ⟨_, ?_, hpadded ▸ hrun⟩
  rw [hfillFill, hmarkFill]
  unfold putSteps
  omega

/-- An ABSORB begun at the micro-operation level ends as the command does. -/
theorem busyRun_absorb (v : Byte) {s : State} (h : s.Quiet) :
    ∃ n t, n ≤ 209 ∧ exec (.absorb v) s = .next t ∧ BusyRun n (startAbsorb v s) t := by
  let counted : State := { s with totalLength := add64 s.totalLength 1#64 }
  have hcounted : counted.Quiet := ⟨h.settled, h.host⟩
  have hend : BusyRun 1 (beginCommand .absorbing (putByte v counted)) (settle (putByte v counted)) :=
    (hcounted.after_putByte v).busyStep .absorbing (.refl _)
  have hlt := s.pendingLen.isLt
  have hrun := (busyRun_putByteSerial v .absorbing hcounted).trans hend
  exact ⟨67 * ((s.pendingLen.toNat + 1) / 64) + 1, _, by omega, rfl, hrun⟩

/-- A command begun at the micro-operation level ends in the state of the command, whatever the command is. -/
theorem busyRun_startCommand {i : Instr} {w : CmdWord} (hdecode : decode (.cmd w) = .ok i) {s : State} (h : s.Quiet)
    (hcounts : s.pendingLen = s.totalLength.setWidth 6) :
    ∃ n u t, n ≤ 209 ∧ startCommand i s = .next u ∧ exec i s = .next t ∧ BusyRun n u t := by
  obtain ⟨v, rfl⟩ | rfl | rfl := decodeCmd_command hdecode
  · obtain ⟨n, t, hn, hexec, hrun⟩ := busyRun_absorb v h
    exact ⟨n, _, t, hn, rfl, hexec, hrun⟩
  · obtain ⟨n, hn, hrun⟩ := busyRun_finalize h hcounts
    exact ⟨n, _, _, hn, rfl, exec_finalize_eq s, hrun⟩
  · exact ⟨0, _, _, Nat.zero_le _, rfl, rfl, .refl _⟩

/-- Settles O49: the acceptance is the first step, and `busyRun_startCommand` the others. -/
theorem microOperationRunEqualsTheCommand : Obligations.MicroOperationRunEqualsTheCommand := by
  intro s w i hrest _ hcounts hdetail hacts hdecode
  obtain ⟨n, u, t, hn, hstart, hexec, hrun⟩ :=
    busyRun_startCommand hdecode (s := { s with hostActs := [] }) ⟨hrest.midCompression_eq_false, rfl⟩ hcounts
  have haccept : step s = .next u := ((stepRunsTheAcceptedCommand s w [] i hrest hacts hdecode).2 hdetail).trans hstart
  obtain ⟨hend, hbusy⟩ := hrun.runSteps
  refine ⟨n + 1, t, by omega, by omega, (runSteps_succ haccept).trans hend, hexec, fun k hpos hlt => ?_⟩
  obtain ⟨k, rfl⟩ := Nat.exists_eq_add_of_le' hpos
  rw [runSteps_succ haccept]
  exact hbusy k (by omega)

end Sys2Proof.Machine
end

section
/-!
PROOFS. The compression step (42_compression.md): the mixing functions and the rotation by bits, what each micro-operation
leaves, the 66 steps of a compression, and the unrolled rounds.
-/

namespace Sys2Proof.Machine

/-! ### SEED and FEEDFWD (R182, R188) -/

/-- Settles O26: the copy of the accumulators is the quad of its four registers. -/
theorem seedCopiesTheAccumulators : Obligations.SeedCopiesTheAccumulators := fun _ => rfl

/-- Settles O31: `addQuad` is four separate additions. -/
theorem feedForwardAddsTheWorkingRegisters : Obligations.FeedForwardAddsTheWorkingRegisters := fun _ => rfl

/-! ### The mixing functions (R194) -/

/-- R9: the complement as Lean's own. -/
theorem not32_eq (x : Word) : not32 x = ~~~x := BitVec.xor_allOnes

theorem mixF_eq (b c d : Word) : mixF b c d = (b &&& c) ||| (~~~b &&& d) := by rw [mixF, not32_eq]

theorem mixG_eq (b c d : Word) : mixG b c d = (b &&& d) ||| (c &&& ~~~d) := by rw [mixG, not32_eq]

theorem mixI_eq (b c d : Word) : mixI b c d = c ^^^ (b ||| ~~~d) := by rw [mixI, not32_eq]

/-- F is a selector, and G the same selector with its arguments in another order. -/
theorem mixF_eq_mixG (b c d : Word) : mixF b c d = mixG c d b := by
  rw [mixF_eq, mixG_eq, BitVec.and_comm b c, BitVec.and_comm (~~~b) d]

theorem mixF_getLsbD (b c d : Word) {k : Nat} (hk : k < 32) :
    (mixF b c d).getLsbD k = if b.getLsbD k then c.getLsbD k else d.getLsbD k := by
  rw [mixF_eq, BitVec.getLsbD_or, BitVec.getLsbD_and, BitVec.getLsbD_and, BitVec.getLsbD_not]
  cases b.getLsbD k <;> simp [hk]

/-- Settles O32: F bit by bit, G from F, H and I from the bits of `^^^`, `|||` and `~~~`. -/
theorem mixingFunctionsByBit : Obligations.MixingFunctionsByBit := by
  intro b c d k hk
  refine ⟨mixF_getLsbD b c d hk, ?_, ?_, ?_, mixF_eq_mixG b c d⟩
  · rw [← mixF_eq_mixG, mixF_getLsbD d b c hk]
  · rw [mixH, BitVec.getLsbD_xor, BitVec.getLsbD_xor]
  · rw [mixI_eq, BitVec.getLsbD_xor, BitVec.getLsbD_or, BitVec.getLsbD_not]
    simp [hk]

/-! ### The rotation (R193) -/

/-- R9: below 32 places the rotation is Lean's own. -/
theorem rotl32_eq_rotateLeft (x : Word) {s : Nat} (hs : s < 32) : rotl32 x s = x.rotateLeft s := by
  rw [BitVec.rotateLeft_def, Nat.mod_eq_of_lt hs, rotl32]

theorem rotl32_getLsbD (x : Word) {s k : Nat} (hs : s < 32) (hk : k < 32) :
    (rotl32 x s).getLsbD ((k + s) % 32) = x.getLsbD k := by
  rw [rotl32_eq_rotateLeft x hs, BitVec.getLsbD_rotateLeft_of_le hs]
  by_cases hstay : k + s < 32
  · have hnot : ¬ k + s < s := by omega
    simp [Nat.mod_eq_of_lt hstay, hstay, hnot]
  · have hwrap : (k + s) % 32 = k + s - 32 := by omega
    have hlt : k + s - 32 < s := by omega
    have hsource : 32 - s + (k + s - 32) = k := by omega
    simp [hwrap, hlt, hsource]

/-- R92: the sixteen amounts. -/
theorem rotationAmount_mem : ∀ i : RoundIndex,
    rotationAmount i ∈ [4, 5, 6, 7, 9, 10, 11, 12, 14, 15, 16, 17, 20, 21, 22, 23] := by decide

/-- Settles O33: `rotl32_getLsbD` for every amount, and the amounts of the table by `rotationAmount_mem`. -/
theorem rotationMovesEveryBit : Obligations.RotationMovesEveryBit :=
  ⟨fun x _ _ _ hs hk => rotl32_getLsbD x (by omega) hk, rotationAmount_mem⟩

/-! ### The rounds (R183 to R187) -/

theorem rotationAmount_lt : ∀ i : RoundIndex, rotationAmount i < 32 := by decide

/-- R92: the amount of a round by its group. -/
theorem rotationAmount_of_group {i : RoundIndex} {group : Nat} (hlo : 16 * group ≤ i.toNat)
    (hhi : i.toNat ≤ 16 * group + 15) : rotationAmount i = (rotationRow group).getD (i.toNat % 4) 0 := by
  have hgroup : (roundGroup i).toNat = group := by
    rw [roundGroup_toNat]
    omega
  rw [rotationAmount, hgroup]

/-- R183: a round whose mixed value, message index and rotation amount are given. -/
theorem exec_round {r : Instr} {f : Word → Word → Word → Word} {i : RoundIndex} {s : State} {mixed : Word} {g amount : Nat}
    (hexec : exec r s = .next (roundOp f i s)) (hmixed : f s.w.b s.w.c s.w.d = mixed) (hg : messageIndex i = g)
    (hamount : rotationAmount i = amount) :
    exec r s = .next { s with
      w := ⟨s.w.d, s.w.b + (s.w.a + mixed + roundConstant i + s.pending.word g).rotateLeft amount, s.w.b, s.w.c⟩
      seq := s.seq + 1#8 } := by
  rw [hexec, ← hmixed, ← hg, ← hamount, ← rotl32_eq_rotateLeft _ (rotationAmount_lt i)]
  rfl

/-- Settles O27: `exec_round` with F and the selections of group 0. -/
theorem roundFTransformsTheWorkingRegisters : Obligations.RoundFTransformsTheWorkingRegisters := by
  intro i s hhi
  obtain ⟨hg, -, -, -⟩ := messageScheduleIsFourPermutations.1 i
  exact exec_round rfl (mixF_eq _ _ _) (hg hhi) (rotationAmount_of_group (group := 0) (Nat.zero_le _) hhi)

/-- Settles O28: `exec_round` with G and the selections of group 1. -/
theorem roundGTransformsTheWorkingRegisters : Obligations.RoundGTransformsTheWorkingRegisters := by
  intro i s hlo hhi
  obtain ⟨-, hg, -, -⟩ := messageScheduleIsFourPermutations.1 i
  exact exec_round rfl (mixG_eq _ _ _) (hg hlo hhi) (rotationAmount_of_group (group := 1) hlo hhi)

/-- Settles O29: `exec_round` with H and the selections of group 2. -/
theorem roundHTransformsTheWorkingRegisters : Obligations.RoundHTransformsTheWorkingRegisters := by
  intro i s hlo hhi
  obtain ⟨-, -, hg, -⟩ := messageScheduleIsFourPermutations.1 i
  exact exec_round (f := mixH) rfl rfl (hg hlo hhi) (rotationAmount_of_group (group := 2) hlo hhi)

/-- Settles O30: `exec_round` with I and the selections of group 3, the last. -/
theorem roundITransformsTheWorkingRegisters : Obligations.RoundITransformsTheWorkingRegisters := by
  intro i s hlo
  obtain ⟨-, -, -, hg⟩ := messageScheduleIsFourPermutations.1 i
  exact exec_round rfl (mixI_eq _ _ _) (hg hlo) (rotationAmount_of_group (group := 3) hlo (Nat.le_of_lt_succ i.isLt))

/-! ### The 66 steps of a compression (R180, R191) -/

theorem runSteps_add {m n : Nat} {s u : State} (h : runSteps m s = .next u) : runSteps (m + n) s = runSteps n u := by
  induction m generalizing s with
  | zero =>
    cases h
    rw [Nat.zero_add]
  | succ m ih =>
    obtain ⟨v, hstep, hrun⟩ := runSteps_succ_cases h
    rw [Nat.add_right_comm, runSteps_succ hstep, ih hrun]

/-- R183: the rounds up to index 63, one step each, whatever `cmd_ready` is. -/
theorem runSteps_rounds {n : Nat} {s : State} (hlo : 0x80 ≤ s.seq.toNat) (hhi : s.seq.toNat + n ≤ 0xC0)
    (hquiet : s.hostActs = []) : runSteps n s = .next (runRounds n s) := by
  induction n generalizing s with
  | zero => rfl
  | succ n ih =>
    have hnext : (s.seq + 1#8).toNat = s.seq.toNat + 1 := by bv_omega
    rw [runSteps_succ (step_round hquiet hlo (by omega)), runRounds_succ]
    exact ih (by rw [roundOp_seq]; omega) (by rw [roundOp_seq]; omega) hquiet

/-- R182, R183: SEED and the first `n` rounds. -/
theorem runSteps_seed_rounds {n : Nat} {s : State} (hseq : s.seq = 0x40#8) (hquiet : s.hostActs = []) (hn : n ≤ 64) :
    runSteps (n + 1) s = .next (runRounds n (seedOp s)) := by
  have hfirst : (seedOp s).seq.toNat = 0x80 := rfl
  rw [runSteps_succ (step_seed hquiet hseq)]
  exact runSteps_rounds (by omega) (by omega) hquiet

theorem runRounds_seedOp_seq (n : Nat) (s : State) : (runRounds n (seedOp s)).seq = 0x80#8 + BitVec.ofNat 8 n :=
  congrArg State.seq (runRounds_frame n (seedOp s))

/-- R180: what SEED, the 64 rounds and FEEDFWD leave in every field. -/
theorem feedfwdOp_runRounds_seedOp (s : State) :
    feedfwdOp (runRounds 64 (seedOp s)) =
      { s with h := compressFn s.pending.word s.h, w := roundsFn s.pending.word s.h, seq := 0x00#8 } := by
  rw [runRounds_frame, runRounds_64_w rfl]
  rfl

/-- Settles O37: SEED and the 64 rounds keep `seq` at 0x40 and 0x80 to 0xC0, and FEEDFWD is step 66. -/
theorem compressionTakesSixtySixSteps : Obligations.CompressionTakesSixtySixSteps := by
  intro s hseq hquiet
  constructor
  · have hframe := runRounds_frame 64 (seedOp s)
    have hlast : step (runRounds 64 (seedOp s)) = .next (feedfwdOp (runRounds 64 (seedOp s))) :=
      step_feedfwd ((congrArg State.hostActs hframe).trans hquiet) (runRounds_seedOp_seq 64 s)
    rw [runSteps_add (m := 65) (n := 1) (runSteps_seed_rounds hseq hquiet le_rfl), runSteps_succ hlast,
      feedfwdOp_runRounds_seedOp]
    rfl
  · intro n hn
    cases n with
    | zero => exact ⟨s, rfl, by simp [hseq]⟩
    | succ n =>
      refine ⟨_, runSteps_seed_rounds hseq hquiet (by omega), ?_⟩
      rw [runRounds_seedOp_seq]
      bv_omega

/-! ### The unrolled rounds (R189) -/

/-- R183, R189: a round computes one new register value and moves the other three; the order of the two last addends of its
sum does not matter. -/
theorem roundFn_eq_unrolledRound (msg : Nat → Word) (i : RoundIndex) (x y z v : Word) :
    roundFn msg ⟨x, y, z, v⟩ i = ⟨v, unrolledRound msg i x y z v, y, z⟩ := by
  simp only [roundFn, roundQuad, unrolledRound, add32, add_right_comm _ (roundConstant i)]

/-- R189: in four rounds each register takes its new value and is back in its own role. -/
theorem unrolledFour_eq (msg : Nat → Word) (w : Quad) (j : Nat) :
    unrolledFour msg w j =
      ([4 * j, 4 * j + 1, 4 * j + 2, 4 * j + 3].map (BitVec.ofNat 6)).foldl (roundFn msg) w := by
  obtain ⟨a, b, c, d⟩ := w
  simp only [List.map_cons, List.map_nil, List.foldl_cons, List.foldl_nil, roundFn_eq_unrolledRound, unrolledFour]

/-- The first `4 * n` round indexes and the next four. -/
theorem range_four_mul_succ (n : Nat) :
    List.range (4 * (n + 1)) = List.range (4 * n) ++ [4 * n, 4 * n + 1, 4 * n + 2, 4 * n + 3] := by
  simp only [Nat.mul_add_one, List.range_add]
  rfl

theorem foldl_unrolledFour (msg : Nat → Word) (w : Quad) (n : Nat) :
    (List.range n).foldl (unrolledFour msg) w =
      ((List.range (4 * n)).map (BitVec.ofNat 6)).foldl (roundFn msg) w := by
  induction n with
  | zero => rfl
  | succ n ih =>
    rw [List.range_succ, List.foldl_append, ih, List.foldl_cons, List.foldl_nil, unrolledFour_eq, range_four_mul_succ,
      List.map_append, List.foldl_append]

/-- Settles O38: sixteen times four rounds. -/
theorem unrolledRoundsAgree : Obligations.UnrolledRoundsAgree := fun msg w => foldl_unrolledFour msg w 16

end Sys2Proof.Machine
end

section
/-!
PROOFS. The host-side helpers: HEX and its inverse (R230, R231), and ONESHOT by the machine's steps (R232).
-/

namespace Sys2Proof.Machine

/-! ### HEX (R230, R231) -/

theorem hexDigit_mem : ∀ n : BitVec 4, hexDigit n ∈ hexDigits := by decide

theorem unhexDigit_hexDigit : ∀ n : BitVec 4, unhexDigit (hexDigit n) = some n := by decide

/-- A digit is that of the nibble of its index. -/
theorem exists_hexDigit_eq {c : Char} (h : c ∈ hexDigits) : ∃ n : BitVec 4, hexDigit n = c := by
  obtain ⟨i, hi, rfl⟩ := List.getElem_of_mem h
  refine ⟨BitVec.ofNat 4 i, ?_⟩
  rw [hexDigit, BitVec.toNat_ofNat, Nat.mod_eq_of_lt (b := 2 ^ 4) hi, List.getD_eq_getElem]

theorem hexByte_append (hi lo : BitVec 4) : hexByte (hi ++ lo) = [hexDigit hi, hexDigit lo] := by
  rw [hexByte, BitVec.extractLsb'_append_eq_left, BitVec.extractLsb'_append_eq_right]

/-- Every byte is made of two nibbles. -/
theorem exists_nibbles_eq (b : Byte) : ∃ hi lo : BitVec 4, hi ++ lo = b :=
  ⟨b.extractLsb' 4 4, b.extractLsb' 0 4, BitVec.extractLsb'_append_extractLsb'⟩

theorem hexChars_cons (b : Byte) (d : List Byte) : hexChars (b :: d) = hexByte b ++ hexChars d := List.flatMap_cons

theorem hexChars_length (d : List Byte) : (hexChars d).length = 2 * d.length := by
  induction d with
  | nil => rfl
  | cons b d ih =>
    rw [hexChars_cons, List.length_append, ih, List.length_cons, hexByte, List.length_cons, List.length_singleton]
    omega

theorem mem_hexDigits_of_mem_hexChars {d : List Byte} {c : Char} (h : c ∈ hexChars d) : c ∈ hexDigits := by
  obtain ⟨b, -, hc⟩ := List.mem_flatMap.mp h
  rw [hexByte, List.mem_pair] at hc
  obtain rfl | rfl := hc <;> exact hexDigit_mem _

theorem unhex_hexChars (d : List Byte) : unhex (hexChars d) = some d := by
  induction d with
  | nil => rfl
  | cons b d ih =>
    obtain ⟨hi, lo, rfl⟩ := exists_nibbles_eq b
    rw [hexChars_cons, hexByte_append]
    simp [unhex, unhexDigit_hexDigit, ih]

/-- Every string of an even number of digits is the HEX of some bytes: each two digits are one byte's. -/
theorem exists_hexChars_eq {n : Nat} {cs : List Char} (hlen : cs.length = 2 * n) (hdigits : ∀ c ∈ cs, c ∈ hexDigits) :
    ∃ d : List Byte, d.length = n ∧ hexChars d = cs := by
  induction n generalizing cs with
  | zero => exact ⟨[], rfl, (List.eq_nil_of_length_eq_zero hlen).symm⟩
  | succ n ih =>
    obtain _ | ⟨hi, _ | ⟨lo, rest⟩⟩ := cs
    · rw [List.length_nil] at hlen
      omega
    · rw [List.length_singleton] at hlen
      omega
    · simp only [List.forall_mem_cons] at hdigits
      obtain ⟨hhi, hlo, hrest⟩ := hdigits
      obtain ⟨x, rfl⟩ := exists_hexDigit_eq hhi
      obtain ⟨y, rfl⟩ := exists_hexDigit_eq hlo
      obtain ⟨d, rfl, rfl⟩ := ih (by simpa [Nat.mul_add_one] using hlen) hrest
      exact ⟨(x ++ y) :: d, rfl, by rw [hexChars_cons, hexByte_append]; rfl⟩

/-- Settles O45: decoding inverts HEX, and two by two the digits of any string are those of a byte. -/
theorem hexIsABijection : Obligations.HexIsABijection :=
  ⟨fun d hd => ⟨by rw [hexChars_length, hd], fun _ hc => mem_hexDigits_of_mem_hexChars hc, unhex_hexChars d⟩,
    fun _ hlen hdigits => exists_hexChars_eq hlen hdigits⟩

/-! ### ONESHOT (R232) -/

/-- R232: the words of ONESHOT are the word of RESET (R83) and those of UPDATE and FINALIZE. -/
theorem scriptWords_oneshot (m : List Byte) :
    scriptWords [.oneshot (.hex m)] = 0x300#10 :: scriptWords [.update (.hex m), .finalize] := by
  simp [scriptWords, ScriptLine.expand, ScriptOperand.bytes, oneshotCommands, commandWords, encode]

/-- Settles O44: RESET leaves the initial state whatever the engine held (O14), and the words after it are those of O43. -/
theorem oneShotRespondsWithTheDigest : Obligations.OneShotRespondsWithTheDigest := by
  intro m s hrest hbuf hdetail hacts
  let message := presentWords (scriptWords [.update (.hex m), .finalize])
  have hacts' : s.hostActs = .word 0x300#10 :: message := by rw [hacts, scriptWords_oneshot]; rfl
  have hstep := (stepRunsTheAcceptedCommand s _ message .reset hrest hacts' rfl).1 hdetail
  obtain ⟨u, hexec, -, hrest', hinitial, hcells, hresponses, ⟨hleft, hdetail'⟩, -⟩ :=
    resetGivesTheInitialState { s with hostActs := message }
  obtain ⟨t, hrun, hdigest, hstate, hdone⟩ :=
    everyMessageGetsItsDigest m u [] hrest' (hcells ▸ hbuf) (hdetail'.trans hdetail) hinitial
      (hleft.trans (List.append_nil message).symm)
  exact ⟨t, (runSteps_succ (hstep.trans hexec)).trans hrun, hresponses ▸ hdigest, hstate, hdone⟩

end Sys2Proof.Machine
end

section
/-!
PROOFS. Exceptions (60_exceptions.md): every instruction completes (R250), what an engine at rest does for each act of the host
(R262), the one thing that stops the machine (R88), and independent engines (R258).
-/

namespace Sys2Proof.Machine

/-! ### Every instruction completes (R250, R251) -/

/-- Settles O21: each arm of the dispatch answers a next state outright. -/
theorem everyInstructionCompletesInEveryState : Obligations.EveryInstructionCompletesInEveryState := by
  intro i s
  cases i with
  | absorb v => exact ⟨_, rfl⟩
  | finalize => exact ⟨_, rfl⟩
  | reset => exact ⟨_, rfl⟩
  | idle => exact ⟨_, rfl⟩
  | seed => exact ⟨_, rfl⟩
  | roundF r => exact ⟨_, rfl⟩
  | roundG r => exact ⟨_, rfl⟩
  | roundH r => exact ⟨_, rfl⟩
  | roundI r => exact ⟨_, rfl⟩
  | feedfwd => exact ⟨_, rfl⟩

/-- The same of a command begun at the micro-operation level. -/
theorem startCommand_completes {w : CmdWord} {i : Instr} (hdecode : decode (.cmd w) = .ok i) (s : State) :
    ∃ t, startCommand i s = .next t := by
  obtain ⟨v, rfl⟩ | rfl | rfl := decodeCmd_command hdecode
  · exact ⟨startAbsorb v s, rfl⟩
  · exact ⟨startFinalize s, rfl⟩
  · exact everyInstructionCompletesInEveryState .reset s

/-! ### An engine at rest (R262) -/

/-- R90, row IDLE: with no block due, IDLE changes nothing. -/
theorem idleOp_eq_self {s : State} (hseq : s.seq = 0x00#8) (hblock : s.blockReady = false) : idleOp s = s :=
  calc idleOp s = { s with seq := 0x00#8, blockReady := false } := by rw [idleOp, hblock]; rfl
    _ = s := by rw [← hseq, ← hblock]

/-- The step of an engine at rest: hardware reset, a presented word, or nothing but the host's pause. -/
theorem step_atRest_cases {s : State} (h : s.AtRest) :
    (∃ rest, s.hostActs = .rst :: rest ∧ step s = .next (hardReset { s with hostActs := rest })) ∨
    (∃ w rest, s.hostActs = .word w :: rest ∧ step s = acceptWord w { s with hostActs := rest }) ∨
    (s.rstAsserted = false ∧ s.cmdValid = false ∧ step s = .next (tick s)) := by
  obtain hreset | ⟨-, hmid, -⟩ | ⟨-, -, hbusy, -⟩ | ⟨hrst, -, -, hstep⟩ := step_cases s
  · exact .inl hreset
  · simp [h.midCompression_eq_false] at hmid
  · simp [h.ready] at hbusy
  · rw [hstep]
    obtain hword | ⟨hvalid, hidle⟩ := stepAtRest_cases s
    · exact .inr (.inl hword)
    · have hnothing : idleOp (tick s) = tick s :=
        idleOp_eq_self (by rw [tick_seq, h.idle]) (by rw [tick_blockReady, h.noBlock])
      exact .inr (.inr ⟨hrst, hvalid, hnothing ▸ hidle⟩)

/-- Settles O10: with neither `rst` nor a word the step is the host's tick. -/
theorem atRestTheEngineHoldsItsState : Obligations.AtRestTheEngineHoldsItsState := by
  intro s hrest
  obtain ⟨acts, hrst, -⟩ | ⟨w, acts, hword, -⟩ | ⟨-, -, hstep⟩ := step_atRest_cases hrest
  · simp [hrst]
  · simp [hword]
  · rw [hstep]
    exact ⟨fun hquiet => by rw [tick_quiet s hquiet], fun rest hpause => by rw [tick_pause s rest hpause]⟩

/-! ### What stops the machine (R88) -/

/-- R88: the decoder of the command port gives one reason only. -/
theorem decodeCmd_error {w : CmdWord} {e : DecodeError} (h : decodeCmd w = .error e) : e = .reservedCommand w := by
  rw [decodeCmd_eq] at h
  split_ifs at h
  cases h
  rfl

/-- An accepted word completes at either level, or is reserved. -/
theorem acceptWord_completes_or_reserved (w : CmdWord) (s : State) :
    (∃ t, acceptWord w s = .next t) ∨ decode (.cmd w) = .error (.reservedCommand w) := by
  cases hdecode : decode (.cmd w) with
  | error e => exact .inr (congrArg _ (decodeCmd_error hdecode))
  | ok i =>
    left
    cases hdetail : s.detail with
    | command =>
      rw [acceptWord_command hdecode hdetail]
      exact everyInstructionCompletesInEveryState i s
    | micro =>
      rw [acceptWord_micro hdecode hdetail]
      exact startCommand_completes hdecode s

/-- Settles O48: a busy engine is never stopped, and one at rest by the word it is shown only. -/
theorem onlyReservedCommandWordsStop : Obligations.OnlyReservedCommandWordsStop := by
  intro s hinv
  cases hready : s.cmdReady with
  | false => exact .inl (hinv.step_busy_completes hready)
  | true =>
    have hrest := hinv.atRest hready
    obtain ⟨_, -, hstep⟩ | ⟨w, rest, hacts, hstep⟩ | ⟨-, -, hstep⟩ := step_atRest_cases hrest
    · exact .inl ⟨_, hstep⟩
    · rw [hstep]
      obtain hnext | hreserved := acceptWord_completes_or_reserved w { s with hostActs := rest }
      · exact .inl hnext
      · exact .inr ⟨w, rest, hrest, hacts, hreserved, acceptWord_reserved hreserved⟩
    · exact .inl ⟨_, hstep⟩

/-! ### Independent engines (R258) -/

/-- R258: a step of engine `k` replaces that engine in the list. -/
theorem stepInstance_eq_set {k : Nat} {es : List State} {s t : State} (hget : es[k]? = some s) (hstep : step s = .next t) :
    stepInstance k es = .next (es.set k t) := by
  simp only [stepInstance, hget, hstep]

/-- Settles O52: the two replacements are at different places, so either finds its engine after the other. -/
theorem instancesDoNotInteract : Obligations.InstancesDoNotInteract := by
  intro j k es s s' t t' hne hj hk hstep hstep'
  have hj' : (es.set k t')[j]? = some s := by rwa [List.getElem?_set_ne hne.symm]
  have hk' : (es.set j t)[k]? = some s' := by rwa [List.getElem?_set_ne hne]
  obtain ⟨hjlt, -⟩ := List.getElem?_eq_some_iff.mp hj
  obtain ⟨hklt, -⟩ := List.getElem?_eq_some_iff.mp hk'
  refine ⟨es.set j t, es.set k t', (es.set j t).set k t', stepInstance_eq_set hj hstep, stepInstance_eq_set hk' hstep',
    stepInstance_eq_set hk hstep', ?_, ?_, List.getElem?_set_self hklt, fun n hnj hnk => ?_⟩
  · rw [stepInstance_eq_set hj' hstep, List.set_comm _ _ hne]
  · rw [List.getElem?_set_ne hne.symm, List.getElem?_set_self hjlt]
  · rw [List.getElem?_set_ne hnk.symm, List.getElem?_set_ne hnj.symm]

end Sys2Proof.Machine
end

section
/-!
PROOFS. Hardware reset (R280, R281) and the end of every command (R287): the steps that a busy engine has left, by its
activity and by the compression that is due.
-/

namespace Sys2Proof.Machine

/-! ### Hardware reset (R280, R281) -/

/-- R253: `rst` is looked at before everything else. -/
theorem step_rst {s : State} {rest : List HostAct} (hacts : s.hostActs = .rst :: rest) :
    step s = .next (hardReset { s with hostActs := rest }) := by
  simp only [step, stepOnce, hacts]

/-- Settles O13: hardware reset is the re-initialisation of R280 at rest, and neither of the two touches the responses. -/
theorem hardwareResetAbandonsEverything : Obligations.HardwareResetAbandonsEverything := by
  intro s rest hacts
  exact ⟨hardReset { s with hostActs := rest }, step_rst hacts, ⟨rfl, rfl, rfl, rfl, rfl, rfl⟩, settle_atRest rfl,
    rfl, rfl, rfl⟩

/-! ### A busy engine whose compression is over -/

/-- `cmd_ready` returns to 1 within `n` steps. -/
def State.ReadyWithin (s : State) (n : Nat) : Prop :=
  ∃ k t, k ≤ n ∧ BusyRun k s t ∧ t.cmdReady = true

theorem BusyRun.readyWithin {k n : Nat} {s t : State} (hrun : BusyRun k s t) (hready : t.cmdReady = true) (hk : k ≤ n) :
    s.ReadyWithin n :=
  ⟨k, t, hk, hrun, hready⟩

theorem State.ReadyWithin.mono {m n : Nat} {s : State} (h : s.ReadyWithin m) (hmn : m ≤ n) : s.ReadyWithin n := by
  obtain ⟨k, t, hk, hrun, hready⟩ := h
  exact hrun.readyWithin hready (hk.trans hmn)

theorem State.ReadyWithin.after {m n : Nat} {s u : State} (h : u.ReadyWithin n) (hrun : BusyRun m s u) :
    s.ReadyWithin (m + n) := by
  obtain ⟨k, t, hk, hrest, hready⟩ := h
  exact (hrun.trans hrest).readyWithin hready (Nat.add_le_add_left hk m)

theorem beginCommand_eq_self {s : State} {a : Activity} (hbusy : s.cmdReady = false) (hact : s.activity = a) :
    beginCommand a s = s := by
  rw [beginCommand, ← hbusy, ← hact]

/-- How many steps of the command are left at most when no compression is due: the lines of R161 from the activity on, with
the compressions they bring about. -/
def State.controlSteps (s : State) : Nat :=
  match s.activity with
  | .rest => 0
  | .absorbing => 1
  | .padMark => 209
  | .padZeros => putSteps s.pendingLen.toNat (56#6 - s.pendingLen).toNat + 78
  | .padLength _ => 77
  | .readOut => 2
  | .responding => 1

section
variable {s : State} (h : s.Quiet)
include h

/-- F5, F6 and the return of `cmd_ready`. -/
theorem readOut_readyWithin : (beginCommand .readOut s).ReadyWithin 2 :=
  (busyRun_readOut h).readyWithin rfl le_rfl

/-- F4 from byte `k` on: at most eight bytes and, whatever the fill index is, one compression. -/
theorem padLength_readyWithin (k : BitVec 3) : (beginCommand (.padLength k) s).ReadyWithin 77 := by
  have hk : k.toNat + (7 - k.toNat) = 7 := by have := k.isLt; omega
  have hfill := s.pendingLen.isLt
  refine ((readOut_readyWithin (h.after_putBytes _)).after (busyRun_length h hk)).mono ?_
  unfold putSteps
  omega

/-- F3: the zeros up to index 56, and the end of the loop. -/
theorem padZeros_readyWithin :
    (beginCommand .padZeros s).ReadyWithin (putSteps s.pendingLen.toNat (56#6 - s.pendingLen).toNat + 78) := by
  have hz : s.pendingLen + BitVec.ofNat 6 (56#6 - s.pendingLen).toNat = 56#6 := by
    rw [BitVec.ofNat_toNat, BitVec.setWidth_eq, BitVec.add_comm, BitVec.sub_add_cancel]
  exact (padLength_readyWithin (h.after_putBytes _) 0#3).after (busyRun_zeros h hz (56#6 - s.pendingLen).isLt)

/-- An ABSORB whose byte is written, or a FINALIZE at the response instant, has its end left. -/
theorem ending_readyWithin {a : Activity} (ha : a = .absorbing ∨ a = .responding) : (beginCommand a s).ReadyWithin 1 := by
  have hend : BusyRun 1 (beginCommand a s) (settle (beginCommand a s)) := by
    refine h.busyStep a ?_
    rw [commandControl_ends (.inr ha)]
    exact .refl _
  exact hend.readyWithin rfl le_rfl

end

/-- A legal engine at F2 is the one that a FINALIZE begins with (R151). -/
theorem State.Inv.startFinalize_eq_self {s : State} (h : s.Inv) (hbusy : s.cmdReady = false) (hact : s.activity = .padMark) :
    startFinalize s = s := by
  have hlatched : latchBitlen s = s := by rw [latchBitlen, ← h.latch (.inl hact)]
  rw [startFinalize, hlatched, beginCommand_eq_self hbusy hact]

/-- R161: the control of a busy engine ends the command within `controlSteps`. -/
theorem State.Inv.readyWithin_controlSteps {s : State} (h : s.Inv) (hbusy : s.cmdReady = false) (hquiet : s.Quiet) :
    s.ReadyWithin s.controlSteps := by
  have hself {a : Activity} := beginCommand_eq_self (a := a) hbusy
  unfold State.controlSteps
  cases hact : s.activity with
  | rest => simp [h.ready.mpr hact] at hbusy
  | absorbing => exact hself hact ▸ ending_readyWithin hquiet (.inl rfl)
  | padMark =>
    obtain ⟨n, hn, hrun⟩ := busyRun_finalize hquiet (h.counts_agree (by simp [hact]))
    rw [h.startFinalize_eq_self hbusy hact] at hrun
    exact hrun.readyWithin rfl hn
  | padZeros => exact hself hact ▸ padZeros_readyWithin hquiet
  | padLength k => exact hself hact ▸ padLength_readyWithin hquiet k
  | readOut => exact hself hact ▸ readOut_readyWithin hquiet
  | responding => exact hself hact ▸ ending_readyWithin hquiet (.inr rfl)

/-- R287: a FINALIZE before F2 has the most steps left; in F3, at most 63 zeros are. -/
theorem State.controlSteps_le (s : State) : s.controlSteps ≤ 209 := by
  unfold State.controlSteps
  cases s.activity with
  | padZeros =>
    unfold putSteps
    bv_omega
  | rest | absorbing | padMark | padLength | readOut | responding => simp

/-! ### A busy engine in the middle of a compression (R191) -/

/-- R25, R161: during a compression the fill index is 0, so that F3 has 56 zeros left; FINALIZE is past F2. -/
theorem State.Inv.controlSteps_le_of_midCompression {s : State} (h : s.Inv) (hmid : s.midCompression = true) :
    s.controlSteps ≤ 134 := by
  have hfill : s.pendingLen = 0#6 := h.wrapped hmid
  unfold State.controlSteps
  cases hact : s.activity with
  | padMark => simp [h.settled (by simp [hact])] at hmid
  | padZeros =>
    rw [hfill]
    decide
  | rest | absorbing | padLength | readOut | responding => simp

/-- The state when the compression in progress has put `acc` into the accumulators and `work` into the working registers. -/
def State.compressed (s : State) (acc work : Quad) : State :=
  { s with h := acc, w := work, seq := 0x00#8, blockReady := false }

/-- R188: FEEDFWD ends the compression. -/
theorem feedfwdOp_eq_compressed {s : State} (hblock : s.blockReady = false) :
    feedfwdOp s = s.compressed (addQuad s.h s.w) s.w := by
  rw [State.compressed, ← hblock, feedfwdOp]

/-- R183, R188: from a round or from FEEDFWD on, at most 65 steps. -/
theorem busyRun_fromRound {s : State} (hbusy : s.cmdReady = false) (hquiet : s.hostActs = []) (hblock : s.blockReady = false)
    (hlo : 0x80 ≤ s.seq.toNat) (hhi : s.seq.toNat ≤ 0xC0) :
    ∃ n acc work, n ≤ 65 ∧ BusyRun n s (s.compressed acc work) := by
  have hrounds : BusyRun (0xC0 - s.seq.toNat) s (runRounds (0xC0 - s.seq.toNat) s) :=
    busyRun_rounds hlo (by omega) hbusy hquiet
  have hseq : s.seq + BitVec.ofNat 8 (0xC0 - s.seq.toNat) = 0xC0#8 := by bv_omega
  rw [runRounds_frame, hseq] at hrounds
  have hend := hrounds.trans (.step hbusy (step_feedfwd hquiet rfl) (.refl _))
  rw [feedfwdOp_eq_compressed (by exact hblock)] at hend
  exact ⟨_, _, _, by omega, hend⟩

/-- R90, R191: a compression that is due or in progress is over within 67 steps, which write `h`, `w`, `seq` and the trigger
only. -/
theorem State.Inv.busyRun_compression {s : State} (h : s.Inv) (hbusy : s.cmdReady = false) (hquiet : s.hostActs = [])
    (hmid : s.midCompression = true) : ∃ n acc work, n ≤ 67 ∧ BusyRun n s (s.compressed acc work) := by
  have hblock : s.seq ≠ 0x00#8 → s.blockReady = false := fun hne => by simpa using mt h.trigger hne
  obtain hq | hq | ⟨hlo, hhi⟩ | hq := legalSeq_cases h.seqLegal
  · have hready : s.blockReady = true := by simpa [State.midCompression, hq] using hmid
    have hrun := busyRun_compress hq hready hbusy hquiet
    rw [compress_frame] at hrun
    exact ⟨67, _, _, le_rfl, hrun⟩
  · obtain ⟨n, acc, work, hn, hrun⟩ :=
      busyRun_fromRound (s := seedOp s) hbusy hquiet (hblock (by simp [hq])) (by simp) (by simp)
    exact ⟨n + 1, acc, work, by omega, .step hbusy (step_seed hquiet hq) hrun⟩
  · obtain ⟨n, acc, work, hn, hrun⟩ := busyRun_fromRound hbusy hquiet (hblock (by bv_omega)) hlo hhi.le
    exact ⟨n, acc, work, by omega, hrun⟩
  · obtain ⟨n, acc, work, hn, hrun⟩ :=
      busyRun_fromRound hbusy hquiet (hblock (by simp [hq])) (by rw [hq]; decide) (by rw [hq]; decide)
    exact ⟨n, acc, work, by omega, hrun⟩

/-- Settles O50: the compression in progress, if there is one, and then the control. -/
theorem everyCommandFinishes : Obligations.EveryCommandFinishes := by
  intro s hinv hbusy hquiet
  have hwithin : s.ReadyWithin 209 := by
    cases hmid : s.midCompression with
    | false => exact (hinv.readyWithin_controlSteps hbusy ⟨hmid, hquiet⟩).mono s.controlSteps_le
    | true =>
      obtain ⟨n, acc, work, hn, hrun⟩ := hinv.busyRun_compression hbusy hquiet hmid
      have hover : (s.compressed acc work).Inv := hinv.compressing hmid acc work rfl nofun
      have hrest := (hover.readyWithin_controlSteps hbusy ⟨rfl, hquiet⟩).after hrun
      have hle : (s.compressed acc work).controlSteps ≤ 134 := hinv.controlSteps_le_of_midCompression hmid
      exact hrest.mono (by omega)
  obtain ⟨n, t, hn, hrun, hready⟩ := hwithin
  exact ⟨n, t, hn, hrun.runSteps.1, hready⟩

end Sys2Proof.Machine
end
